-- ==== Sys2Proof/Config.lean ====
section
/-! DEFINITION. What an implementation of the block fixes: the one open parameter of the spec, RESET_STYLE.
The code parameters of `spec/00_scope.md` R7 are no configuration: no command and no implementation changes them. -/

namespace Sys2Proof

/-- The physical styles of reset that `spec/92_eei_decisions.md` D20 lists. -/
inductive ResetStyle where
  | syncHigh
  | syncLow
  | asyncHigh
  | asyncLow
  deriving DecidableEq, Repr, Inhabited

/-- RESET_STYLE (R195): how `rst` is sampled, and its polarity. It is left open, so it has no value here that a proof
could use; the step model of R190 is the same for every style (log entry 4). -/
opaque Config.resetStyle : ResetStyle

end Sys2Proof
end

