-- ==== Sys2Proof/Word.lean ====
section
/-! DEFINITION. The words of the TGB coding core: the widths of its fields, and bit strings.
`spec/00_scope.md` R8, R9; `spec/30_encoding.md` R60. -/

namespace Sys2Proof

/-- A command word `cmd[15:0]` (R60). -/
abbrev Word := BitVec 16

/-- The operand field DATA and the result register RDATA (R23, R60). -/
abbrev Byte := BitVec 8

/-- A 4-bit field or register: OP, LEN, RLEN, CRC_REM, STATUS (R24, R26, R27, R60). -/
abbrev Nibble := BitVec 4

/-- A bit string, its first bit at the head (R9). -/
abbrev Bits := List Bool

end Sys2Proof
end

