-- ==== Sys2Proof/Syntax.lean ====
section
/-! DEFINITION. The commands of the block: one constructor for each row of `spec/opcode_table.json`.
Every constructor carries the fields LEN and DATA as the word holds them (R60), the ignored ones too (log entry 6). -/

namespace Sys2Proof

/-- A decoded command (`spec/30_encoding.md` R63). -/
inductive Instr where
  /-- NOP, OP = 0x0 (R170); LEN and DATA are ignored. -/
  | nop (len : Nibble) (data : Byte)
  /-- REPDEC, OP = 0x1 (R101). -/
  | repdec (len : Nibble) (data : Byte)
  /-- HAMENC, OP = 0x2 (R111). -/
  | hamenc (len : Nibble) (data : Byte)
  /-- HAMDEC, OP = 0x3 (R121). -/
  | hamdec (len : Nibble) (data : Byte)
  /-- CRCINIT, OP = 0x4 (R130); LEN and DATA are ignored. -/
  | crcinit (len : Nibble) (data : Byte)
  /-- CRCSHIFT, OP = 0x5 (R132). -/
  | crcshift (len : Nibble) (data : Byte)
  /-- CRCFINAL, OP = 0x6 (R133); LEN and DATA are ignored. -/
  | crcfinal (len : Nibble) (data : Byte)
  /-- CRCCHECK, OP = 0x7 (R134); LEN and DATA are ignored. -/
  | crccheck (len : Nibble) (data : Byte)
  /-- The undefined opcodes, OP in 0x8..0xF (R172); LEN and DATA are ignored. -/
  | undefined (op : Nibble) (len : Nibble) (data : Byte)
  deriving DecidableEq, Repr

/-- The kinds of rejection of R13 and R173. -/
inductive RejectKind where
  /-- A length the command does not take. -/
  | length
  /-- An undefined opcode. -/
  | opcode
  deriving DecidableEq, Repr

end Sys2Proof
end

