-- ==== Sys2Proof/WellFormed.lean ====
section
/-! DEFINITION. Which terms of `Instr` stand for a command word. A length that a command does not take is no
ill-formedness: the block executes such a word by reject(LENGTH) (R64, R171; log entry 7). -/

namespace Sys2Proof

/-- The opcodes that no command has (R65): 0x8 to 0xF. -/
def isUndefinedOpcode (op : Nibble) : Bool := decide (8 ≤ op.toNat)

/-- A term stands for a word unless it is `undefined` with an opcode that belongs to a command (R63). -/
def Instr.wellFormed : Instr → Bool
  | .nop _ _ => true
  | .repdec _ _ => true
  | .hamenc _ _ => true
  | .hamdec _ _ => true
  | .crcinit _ _ => true
  | .crcshift _ _ => true
  | .crcfinal _ _ => true
  | .crccheck _ _ => true
  | .undefined op _ _ => isUndefinedOpcode op

end Sys2Proof
end

