-- ==== Sys2Proof/Decode.lean ====
section
/-! DEFINITION. Decoding and encoding of command words, and which words the block accepts
(`spec/30_encoding.md` R60 to R67). The decoder is total: it gives each of the 2^16 words its command, and the words
that the block rejects are rejected by name, LENGTH or OPCODE (`Instr.rejection`). -/

namespace Sys2Proof

/-- OP, `cmd[15:12]` (R60). -/
def opField (w : Word) : Nibble := w.extractLsb' 12 4

/-- LEN, `cmd[11:8]` (R60, R61). -/
def lenField (w : Word) : Nibble := w.extractLsb' 8 4

/-- DATA, `cmd[7:0]` (R60). -/
def dataField (w : Word) : Byte := w.extractLsb' 0 8

/-- The opcode map (R63). Decoding looks at OP alone; each command's own rule checks LEN afterwards. -/
def decode (w : Word) : Instr :=
  match opField w with
  | 0x0#4 => .nop (lenField w) (dataField w)
  | 0x1#4 => .repdec (lenField w) (dataField w)
  | 0x2#4 => .hamenc (lenField w) (dataField w)
  | 0x3#4 => .hamdec (lenField w) (dataField w)
  | 0x4#4 => .crcinit (lenField w) (dataField w)
  | 0x5#4 => .crcshift (lenField w) (dataField w)
  | 0x6#4 => .crcfinal (lenField w) (dataField w)
  | 0x7#4 => .crccheck (lenField w) (dataField w)
  | op => .undefined op (lenField w) (dataField w)

/-- The OP field of a command (R63). -/
def Instr.opcode : Instr → Nibble
  | .nop _ _ => 0x0
  | .repdec _ _ => 0x1
  | .hamenc _ _ => 0x2
  | .hamdec _ _ => 0x3
  | .crcinit _ _ => 0x4
  | .crcshift _ _ => 0x5
  | .crcfinal _ _ => 0x6
  | .crccheck _ _ => 0x7
  | .undefined op _ _ => op

/-- The LEN field of a command (R60). -/
def Instr.len : Instr → Nibble
  | .nop len _ => len
  | .repdec len _ => len
  | .hamenc len _ => len
  | .hamdec len _ => len
  | .crcinit len _ => len
  | .crcshift len _ => len
  | .crcfinal len _ => len
  | .crccheck len _ => len
  | .undefined _ len _ => len

/-- The DATA field of a command (R60). -/
def Instr.data : Instr → Byte
  | .nop _ data => data
  | .repdec _ data => data
  | .hamenc _ data => data
  | .hamdec _ data => data
  | .crcinit _ data => data
  | .crcshift _ data => data
  | .crcfinal _ data => data
  | .crccheck _ data => data
  | .undefined _ _ data => data

/-- The word `OOOO LLLL DDDD DDDD` with these fields (R60). -/
def commandWord (op len : Nibble) (data : Byte) : Word := op ++ len ++ data

/-- The word of a command (R60). -/
def encode (i : Instr) : Word := commandWord i.opcode i.len i.data

/-- The mnemonic of a command, as `spec/opcode_table.json` spells it. -/
def Instr.mnemonic : Instr → String
  | .nop _ _ => "NOP"
  | .repdec _ _ => "REPDEC"
  | .hamenc _ _ => "HAMENC"
  | .hamdec _ _ => "HAMDEC"
  | .crcinit _ _ => "CRCINIT"
  | .crcshift _ _ => "CRCSHIFT"
  | .crcfinal _ _ => "CRCFINAL"
  | .crccheck _ _ => "CRCCHECK"
  | .undefined _ _ _ => "(undefined)"

/-- Why the block rejects a command, or `none` if it accepts it (R64, R173). The opcode decides first (R175). -/
def Instr.rejection : Instr → Option RejectKind
  | .nop _ _ => none
  | .repdec len _ => if len.toNat ≤ 8 then none else some .length
  | .hamenc len _ => if len.toNat = 4 then none else some .length
  | .hamdec len _ => if len.toNat = 7 then none else some .length
  | .crcinit _ _ => none
  | .crcshift len _ => if len.toNat ≤ 8 then none else some .length
  | .crcfinal _ _ => none
  | .crccheck _ _ => none
  | .undefined _ _ _ => some .opcode

/-- `accepted(cmd)` as R64 writes it, over the word's fields. -/
def accepted (w : Word) : Bool :=
  let op := opField w
  let len := (lenField w).toNat
  decide (op ∈ [0x0#4, 0x4#4, 0x6#4, 0x7#4])
    || (decide (op ∈ [0x1#4, 0x5#4]) && decide (len ≤ 8))
    || (decide (op = 0x2#4) && decide (len = 4))
    || (decide (op = 0x3#4) && decide (len = 7))

/-- One row of the opcode table: its mnemonic and the bits that fix it. -/
structure OpcodeRow where
  mnemonic : String
  mask : Word
  value : Word
  deriving DecidableEq, Repr

/-- A word belongs to a row when its masked bits are the row's. -/
def OpcodeRow.covers (r : OpcodeRow) (w : Word) : Bool := w &&& r.mask == r.value

/-- The opcode table (R63), as `spec/opcode_table.json` gives each row's mask and match. -/
def opcodeTable : List OpcodeRow :=
  [ ⟨"NOP", 0xF000, 0x0000⟩,
    ⟨"REPDEC", 0xF000, 0x1000⟩,
    ⟨"HAMENC", 0xF000, 0x2000⟩,
    ⟨"HAMDEC", 0xF000, 0x3000⟩,
    ⟨"CRCINIT", 0xF000, 0x4000⟩,
    ⟨"CRCSHIFT", 0xF000, 0x5000⟩,
    ⟨"CRCFINAL", 0xF000, 0x6000⟩,
    ⟨"CRCCHECK", 0xF000, 0x7000⟩,
    ⟨"(undefined)", 0x8000, 0x8000⟩ ]

/-- The command word that the low `nbits` bits of `w` give, the bits above them zero (log entry 9). -/
def tableWord (nbits w : Nat) : Word := BitVec.ofNat 16 (w % 2 ^ nbits)

/-- What the decoder reads from an instruction whose bits are `w`. A word longer than the command port cannot be
presented to the block (R67), so it has no command. -/
def decodeTableWord (nbits w : Nat) : Option Instr :=
  if nbits ≤ 16 then some (decode (tableWord nbits w)) else none

end Sys2Proof
end

