-- ==== Sys2Proof/Machine/State.lean ====
section
/-! DEFINITION. The state of the block: the five registers of `spec/10_state.md` R30, and beside them the values the
host will present on the input ports, which are the model's own field (log entries 1, 2, 3). -/

namespace Sys2Proof.Machine

/-- The register record: "exactly the record of these five fields" (R30). -/
structure Regs where
  /-- RDATA, the result bit string of the last result-writing command (R23). -/
  rdata : Byte
  /-- RLEN, the length in bits of the result (R24). -/
  rlen : Nibble
  /-- SYN, the syndrome of the last successful HAMDEC (R25). -/
  syn : BitVec 3
  /-- CRC_REM, the working remainder of the divider (R26). -/
  crcRem : Nibble
  /-- STATUS, the flags V, E, Z, U at bits 0, 1, 2, 3 (R27). -/
  status : Nibble
  deriving DecidableEq, Repr

/-- The input ports in one step (R20): one sample at a rising edge of `clk`. -/
structure PortIn where
  /-- `rst`: true when reset is asserted, whatever its physical polarity (R190, R195). -/
  rst : Bool
  /-- `cmd_valid`: true when `cmd` holds a command. -/
  cmdValid : Bool
  /-- `cmd`: the command word. -/
  cmd : Word
  deriving DecidableEq, Repr

/-- The output ports (R20). -/
structure PortOut where
  rdata : Byte
  rlen : Nibble
  syn : BitVec 3
  crcRem : Nibble
  status : Nibble
  deriving DecidableEq, Repr

/-- The machine: the registers, and what the host presents in the coming steps. -/
structure State where
  /-- The spec's state (R30). -/
  regs : Regs
  /-- The MODEL's own field: the samples of the input ports in the coming steps, the next step's first. DESIGN CHOICE,
  log entry 1; after the last sample the host presents idle steps, log entry 2. -/
  inputs : List PortIn
  deriving DecidableEq, Repr

/-- The block has no fault: "The block has no traps" (R176), it "never stalls and never refuses a step" (R21) and it
has no halting state (R202). So this type has no constructor, which is safe: nothing can stop by a fault. -/
inductive Fault where
  deriving DecidableEq, Repr

/-- The ways a step can have no meaning. A rejected command is none of them: rejection is a next state (R171). -/
inductive Refusal where
  /-- Raised by an arm of `exec` for a row of the opcode table that has no meaning in this model. No arm raises it: all
  nine rows have theirs. It is safe: the model would stop where the hardware goes on. -/
  | notModelled (mnemonic : String)
  deriving DecidableEq, Repr

/-- The reset values of the registers (R30, R190, R191). -/
def Regs.reset : Regs :=
  { rdata := 0x00, rlen := 0, syn := 0, crcRem := 0b0000, status := 0b0000 }

/-- The machine right after a reset step, with no command presented yet (log entry 3). -/
def State.reset : State := { regs := Regs.reset, inputs := [] }

end Sys2Proof.Machine
end

