-- ==== Sys2Proof/Machine/Flags.lean ====
section
/-! DEFINITION. The flags of STATUS and every rule that computes them (`spec/10_state.md` R27, the matrix of
`spec/30_encoding.md` section 6). Flags are not sticky: each writer overwrites them (R27). -/

namespace Sys2Proof.Machine

/-- V, bit 0: the last result-writing command produced a result (R27). -/
def flagV (status : Nibble) : Bool := status.getLsbD 0

/-- E, bit 1: the last non-NOP command was rejected (R27). -/
def flagE (status : Nibble) : Bool := status.getLsbD 1

/-- Z, bit 2: the outcome of the last zero-testing command (R27). -/
def flagZ (status : Nibble) : Bool := status.getLsbD 2

/-- U, bit 3: the last non-NOP command had an undefined opcode (R27). -/
def flagU (status : Nibble) : Bool := status.getLsbD 3

/-- STATUS from its four flags, at the bits R27 gives them. -/
def packStatus (v e z u : Bool) : Nibble :=
  BitVec.ofBool u ++ BitVec.ofBool z ++ BitVec.ofBool e ++ BitVec.ofBool v

/-- An accepted command that tests nothing for zero: V ← 1, E ← 0, U ← 0, Z kept (R101, R111). -/
def statusAccepted (status : Nibble) : Nibble := packStatus true false (flagZ status) false

/-- An accepted command that tests for zero: V ← 1, E ← 0, U ← 0, Z ← the test (R121, R132, R133, R134). -/
def statusTested (zero : Bool) : Nibble := packStatus true false zero false

/-- CRCINIT: Z ← 1, E ← 0, U ← 0, V kept (R130). -/
def statusInit (status : Nibble) : Nibble := packStatus (flagV status) false true false

/-- A rejection: V ← 0, E ← 1, U ← (kind = OPCODE), Z kept (R171). -/
def statusRejected (kind : RejectKind) (status : Nibble) : Nibble :=
  packStatus false true (flagZ status) (decide (kind = .opcode))

end Sys2Proof.Machine
end

