-- ==== Sys2Proof/Machine/Operands.lean ====
section
/-! DEFINITION. Operands and results: bit strings in port fields, first bit most significant and right-aligned
(`spec/00_scope.md` R10; `spec/30_encoding.md` R62; `spec/20_memory.md` R42, R43). -/

namespace Sys2Proof.Machine

/-- `pack(s)`: the first bit of `s` is the most significant of its bits, and the bits above are 0 (R10). The spec
packs strings of at most 8 bits only; of a longer one this keeps the last 8 bits (log entry 10). -/
def pack (s : Bits) : Byte := (BitVec.ofBoolListBE s).setWidth 8

/-- `unpack(v, L)`: the string s_i = v[L-1-i] (R10). -/
def unpack (v : Byte) (L : Nat) : Bits := (List.range L).map fun i => v.getLsbD (L - 1 - i)

/-- The operand of a command: the low LEN bits of DATA (R62). Bits DATA[7:LEN] are ignored. -/
def operand (len : Nibble) (data : Byte) : Bits := unpack data len.toNat

/-- `zext_8` of a remainder (R11, R132). -/
def zext8 (r : Nibble) : Byte := r.setWidth 8

/-- The codeword bit c_p at the 1-based position p of a 7-bit codeword in a field: bit 7-p (R111, R121). -/
def codeBit (data : Byte) (p : Nat) : Bool := data.getLsbD (7 - p)

end Sys2Proof.Machine
end

