-- ==== Sys2Proof/Machine/Ops.lean ====
section
/-! DEFINITION. The shared operations: the datapaths of the four units, the writes of a result and of a rejection,
the reset step, and the sampling of the input ports. -/

namespace Sys2Proof.Machine

/-! ### repetition_triplet_decoder -/

/-- Majority vote (R100). -/
def maj (a b c : Bool) : Bool := (a && b) || (a && c) || (b && c)

/-- One majority bit for each complete triplet, the first triplet first; a trailing partial triplet is dropped
(R101, R102). -/
def decodeTriplets : Bits → Bits
  | a :: b :: c :: rest => maj a b c :: decodeTriplets rest
  | _ => []

/-! ### hamming_7_4_encoder -/

/-- The codeword p1, p2, d0, p3, d1, d2, d3 of the data bits (R110). -/
def hamEncode (d0 d1 d2 d3 : Bool) : Bits :=
  let p1 := d0 ^^ d1 ^^ d3
  let p2 := d0 ^^ d2 ^^ d3
  let p3 := d1 ^^ d2 ^^ d3
  [p1, p2, d0, p3, d1, d2, d3]

/-! ### hamming_syndrome_decoder -/

/-- The syndrome, as the vector with s3 highest and s1 lowest (R120). -/
def syndrome (data : Byte) : BitVec 3 :=
  let s1 := codeBit data 1 ^^ codeBit data 3 ^^ codeBit data 5 ^^ codeBit data 7
  let s2 := codeBit data 2 ^^ codeBit data 3 ^^ codeBit data 6 ^^ codeBit data 7
  let s3 := codeBit data 4 ^^ codeBit data 5 ^^ codeBit data 6 ^^ codeBit data 7
  BitVec.ofBool s3 ++ BitVec.ofBool s2 ++ BitVec.ofBool s1

/-- The corrected bit c'_p: c_p, flipped when p is the position the syndrome names (R121). -/
def correctedBit (data : Byte) (p : Nat) : Bool := codeBit data p ^^ decide ((syndrome data).toNat = p)

/-- The data bits after correction: c'3, c'5, c'6, c'7 (R121). -/
def hamDecode (data : Byte) : Bits :=
  [correctedBit data 3, correctedBit data 5, correctedBit data 6, correctedBit data 7]

/-! ### crc_4_generator -/

/-- The generator polynomial G = x⁴+x+1, hardwired (R2, R28). -/
def generator : BitVec 5 := 0b10011

/-- G without its leading term, the constant of the XOR datapath (R28, R131). -/
def generatorTail : Nibble := generator.setWidth 4

/-- One division step (R131): shift the remainder left, bring in the dividend bit, and XOR with G's tail when the bit
that leaves the register is 1. -/
def crcStep (r : Nibble) (b : Bool) : Nibble :=
  (r.extractLsb' 0 3 ++ BitVec.ofBool b) ^^^ (if r.getLsbD 3 then generatorTail else 0b0000)

/-- `crc_shift(r, s)`: the division step over the bits of `s`, the first bit first (R131). -/
def crcShift : Nibble → Bits → Nibble
  | r, [] => r
  | r, b :: s => crcShift (crcStep r b) s

/-! ### Register writes -/

/-- Write a result and its status: RDATA, RLEN and STATUS; the other registers keep their values (R12, R23, R24). -/
def State.writeResult (s : State) (rdata : Byte) (rlen : Nibble) (status : Nibble) : State :=
  { s with regs := { s.regs with rdata := rdata, rlen := rlen, status := status } }

/-- Write SYN (R25). -/
def State.writeSyn (s : State) (syn : BitVec 3) : State :=
  { s with regs := { s.regs with syn := syn } }

/-- Write CRC_REM (R26). -/
def State.writeCrcRem (s : State) (r : Nibble) : State :=
  { s with regs := { s.regs with crcRem := r } }

/-- Write STATUS alone (R130). -/
def State.writeStatus (s : State) (status : Nibble) : State :=
  { s with regs := { s.regs with status := status } }

/-- `reject(kind)`, the block's only error mechanism, in place of taking an exception (R171): the absent result. SYN,
CRC_REM and Z keep their values and the next command executes normally; there is no return from it (R177). -/
def reject (kind : RejectKind) (s : State) : State :=
  s.writeResult 0x00 0 (statusRejected kind s.regs.status)

/-- Deliver a new remainder: CRC_REM and RDATA take it, with RLEN = 4 and Z its zero test (R132, R133). -/
def deliverRemainder (r : Nibble) (s : State) : State :=
  (s.writeCrcRem r).writeResult (zext8 r) 4 (statusTested (decide (r = 0)))

/-- The registers' part of a reset step: every register takes its reset value (R190). -/
def State.resetRegs (s : State) : State := { s with regs := Regs.reset }

/-! ### Ports -/

/-- An idle sample: `rst` = 0 and `cmd_valid` = 0 (R21). -/
def PortIn.idle : PortIn := { rst := false, cmdValid := false, cmd := 0 }

/-- A sample that presents a command: `rst` = 0 and `cmd_valid` = 1 (R21). -/
def PortIn.command (w : Word) : PortIn := { rst := false, cmdValid := true, cmd := w }

/-- A sample that asserts reset (R190); what the other ports hold then does not matter. -/
def PortIn.reset : PortIn := { rst := true, cmdValid := false, cmd := 0 }

/-- The host presents `p` in the next step, before what it presents anyway (log entry 1). -/
def State.present (p : PortIn) (s : State) : State := { s with inputs := p :: s.inputs }

/-- What the input ports hold in this step. When nothing is listed the host is idle (log entry 2). -/
def State.sample (s : State) : PortIn :=
  match s.inputs with
  | [] => PortIn.idle
  | p :: _ => p

/-- The state once this step's sample is taken: the samples of the later steps remain. -/
def State.afterSample (s : State) : State := { s with inputs := s.inputs.tail }

/-- The output ports, each driven by the register of the same name (R20). Reading them changes nothing (R45). -/
def State.outputs (s : State) : PortOut :=
  { rdata := s.regs.rdata, rlen := s.regs.rlen, syn := s.regs.syn, crcRem := s.regs.crcRem, status := s.regs.status }

end Sys2Proof.Machine
end

