-- ==== Sys2Proof/Machine/Crc.lean ====
section
/-! DEFINITION. The meanings of CRCINIT, CRCSHIFT, CRCFINAL and CRCCHECK, the commands of `crc_4_generator`
(`spec/44_crc4_generator.md`). -/

namespace Sys2Proof.Machine

/-- CRCINIT (R130): start a new division. RDATA, RLEN, SYN and V keep their values. -/
def execCrcinit (_len : Nibble) (_data : Byte) (s : State) : Host.Outcome State Fault Refusal :=
  .next ((s.writeCrcRem 0b0000).writeStatus (statusInit s.regs.status))

/-- CRCSHIFT (R132): shift the operand through the divider. A rejected one does not advance the stream. -/
def execCrcshift (len : Nibble) (data : Byte) (s : State) : Host.Outcome State Fault Refusal :=
  if len.toNat ≤ 8 then .next (deliverRemainder (crcShift s.regs.crcRem (operand len data)) s)
  else .next (reject .length s)

/-- CRCFINAL (R133): augment by four zeros and deliver the checksum. -/
def execCrcfinal (_len : Nibble) (_data : Byte) (s : State) : Host.Outcome State Fault Refusal :=
  .next (deliverRemainder (crcShift s.regs.crcRem [false, false, false, false]) s)

/-- CRCCHECK (R134): deliver the verdict, 1 when the remainder is zero. CRC_REM keeps its value. -/
def execCrccheck (_len : Nibble) (_data : Byte) (s : State) : Host.Outcome State Fault Refusal :=
  let ok := decide (s.regs.crcRem = 0b0000)
  .next (s.writeResult (pack [ok]) 1 (statusTested ok))

end Sys2Proof.Machine
end

