-- ==== Sys2Proof/Machine/Hamming.lean ====
section
/-! DEFINITION. The meanings of HAMENC and HAMDEC, the commands of `hamming_7_4_encoder` and
`hamming_syndrome_decoder` (`spec/42_hamming_encoder.md`, `spec/43_hamming_syndrome_decoder.md`). -/

namespace Sys2Proof.Machine

/-- HAMENC (R111): d0 = DATA[3] to d3 = DATA[0]; DATA[7:4] is ignored. -/
def execHamenc (len : Nibble) (data : Byte) (s : State) : Host.Outcome State Fault Refusal :=
  if len.toNat = 4 then
    let code := hamEncode (data.getLsbD 3) (data.getLsbD 2) (data.getLsbD 1) (data.getLsbD 0)
    .next (s.writeResult (pack code) 7 (statusAccepted s.regs.status))
  else .next (reject .length s)

/-- HAMDEC (R121): c1 = DATA[6] to c7 = DATA[0]; DATA[7] is ignored. -/
def execHamdec (len : Nibble) (data : Byte) (s : State) : Host.Outcome State Fault Refusal :=
  if len.toNat = 7 then
    let syn := syndrome data
    .next ((s.writeResult (pack (hamDecode data)) 4 (statusTested (decide (syn = 0)))).writeSyn syn)
  else .next (reject .length s)

end Sys2Proof.Machine
end

