-- ==== Sys2Proof/Machine/Repetition.lean ====
section
/-! DEFINITION. The meaning of REPDEC, the command of `repetition_triplet_decoder`
(`spec/41_repetition_decoder.md`). -/

namespace Sys2Proof.Machine

/-- REPDEC (R101): the majority bit of every complete triplet of the operand. -/
def execRepdec (len : Nibble) (data : Byte) (s : State) : Host.Outcome State Fault Refusal :=
  if len.toNat ≤ 8 then
    let out := decodeTriplets (operand len data)
    .next (s.writeResult (pack out) (BitVec.ofNat 4 out.length) (statusAccepted s.regs.status))
  else .next (reject .length s)

end Sys2Proof.Machine
end

