-- ==== Sys2Proof/Machine/System.lean ====
section
/-! DEFINITION. The meanings of NOP and of the undefined opcodes (`spec/60_exceptions.md` R170, R172). -/

namespace Sys2Proof.Machine

/-- NOP (R170): no register is written, STATUS included. -/
def execNop (_len : Nibble) (_data : Byte) (s : State) : Host.Outcome State Fault Refusal := .next s

/-- An undefined opcode (R172): reject(OPCODE), whatever LEN and DATA hold. -/
def execUndefined (_op _len : Nibble) (_data : Byte) (s : State) : Host.Outcome State Fault Refusal :=
  .next (reject .opcode s)

end Sys2Proof.Machine
end

