-- ==== Sys2Proof/Machine/Dispatch.lean ====
section
/-! DEFINITION. The dispatch of a decoded command to its meaning (`spec/30_encoding.md` R63). -/

namespace Sys2Proof.Machine

def exec (i : Instr) (s : State) : Host.Outcome State Fault Refusal :=
  match i with
  | .nop len data => Sys2Proof.Machine.execNop len data s
  | .repdec len data => Sys2Proof.Machine.execRepdec len data s
  | .hamenc len data => Sys2Proof.Machine.execHamenc len data s
  | .hamdec len data => Sys2Proof.Machine.execHamdec len data s
  | .crcinit len data => Sys2Proof.Machine.execCrcinit len data s
  | .crcshift len data => Sys2Proof.Machine.execCrcshift len data s
  | .crcfinal len data => Sys2Proof.Machine.execCrcfinal len data s
  | .crccheck len data => Sys2Proof.Machine.execCrccheck len data s
  | .undefined op len data => Sys2Proof.Machine.execUndefined op len data s

end Sys2Proof.Machine
end

