-- ==== Sys2Proof/Machine/Step.lean ====
section
/-! DEFINITION. One step of the block (`spec/10_state.md` R21; `spec/70_reset_and_hazards.md` R190). -/

namespace Sys2Proof.Machine

/-- One step, of the kind the sampled input ports say: reset first, whatever else they hold (R190); else a command
step, which executes the command; else an idle step, which changes no register (R21). -/
def step (s : State) : Host.Outcome State Fault Refusal :=
  if s.sample.rst then .next s.afterSample.resetRegs
  else if s.sample.cmdValid then exec (decode s.sample.cmd) s.afterSample
  else .next s.afterSample

/-- The host presents the instruction whose bits are `w` in the very next step (log entries 3, 9). -/
def State.withFetchWord (s : State) (nbits w : Nat) : State := s.present (.command (tableWord nbits w))

end Sys2Proof.Machine
end

