-- ==== Sys2Proof/Machine/Division.lean ====
section
/-! DEFINITION. What the divider is compared with: the source's division over a 5-bit window
(`spec/44_crc4_generator.md` R135) and the polynomial reading of a bit string (`spec/00_scope.md` R14). The block holds
neither; statements about its divider use them. -/

namespace Sys2Proof.Machine

/-- G written as the bit string `10011`, first bit leftmost (R14). -/
def generatorBits : Bits := (List.range 5).map fun i => generator.getLsbD (4 - i)

/-- `reduce(w)`: XOR the window with G if its leading bit is 1, else with zeros, and drop the leading bit (R135). -/
def reduceWindow (w : Bits) : Bits :=
  (if w.headD false then List.zipWith xor w generatorBits else w).tail

/-- The loop of the window procedure: reduce, bring in the next pending bit, and reduce once more at the end (R135). -/
def windowLoop : Bits → Bits → Bits
  | w, [] => reduceWindow w
  | w, d :: pending => windowLoop (reduceWindow w ++ [d]) pending

/-- The source's procedure for a dividend of at least 5 bits (R135). -/
def windowDivide (dividend : Bits) : Bits := windowLoop (dividend.take 5) (dividend.drop 5)

/-- A bit as a coefficient over GF(2). -/
def bitCoeff (b : Bool) : ZMod 2 := if b then 1 else 0

/-- `poly(s)`: the sum of s_i · x^(L-1-i), the first bit of highest degree (R14). -/
noncomputable def polyOfBits (s : Bits) : Polynomial (ZMod 2) :=
  ∑ i ∈ Finset.range s.length, Polynomial.C (bitCoeff (s.getD i false)) * Polynomial.X ^ (s.length - 1 - i)

/-- G = x⁴+x+1 as a polynomial (R2, R14). -/
noncomputable def generatorPoly : Polynomial (ZMod 2) := Polynomial.X ^ 4 + Polynomial.X + 1

/-- The polynomial of a remainder: bit j is the coefficient of x^j (R14). -/
noncomputable def polyOfRemainder (r : Nibble) : Polynomial (ZMod 2) :=
  ∑ j ∈ Finset.range 4, Polynomial.C (bitCoeff (r.getLsbD j)) * Polynomial.X ^ j

/-- `r = rem(p)`: the remainder of `p` divided by G (R14). -/
def IsRemainder (r : Nibble) (p : Polynomial (ZMod 2)) : Prop := polyOfRemainder r = p %ₘ generatorPoly

end Sys2Proof.Machine
end

