-- ==== Sys2Proof/Machine/Assembler.lean ====
section
/-! DEFINITION. The assembler, the disassembler and the pseudo-commands of `spec/30_encoding.md` R66, R68, R69, R70.
They run on the host, not in the block. A line of text is read as R68 writes it, with one space before an operand (log
entry 14). -/

namespace Sys2Proof.Machine

/-- One line of assembly: the nine forms of R68 and the pseudo-commands of R69 and R70. -/
inductive AsmLine where
  | nop
  | repdec (quoted : List Char)
  | hamenc (quoted : List Char)
  | hamdec (quoted : List Char)
  | crcinit
  | crcshift (quoted : List Char)
  | crcfinal
  | crccheck
  /-- `.cmd 0xHHHH`: the word verbatim. -/
  | cmd (w : Word)
  /-- `CRCSHIFTS "s"` (R69). -/
  | crcshifts (quoted : List Char)
  /-- `CRCGEN "m"` (R70). -/
  | crcgen (quoted : List Char)
  /-- `CRCVERIFY "c"` (R70). -/
  | crcverify (quoted : List Char)
  deriving DecidableEq, Repr

/-- A quoted bit string, first bit leftmost; `none` is the assembler error for a character other than '0' or '1'
(R68). -/
def parseBits : List Char → Option Bits
  | [] => some []
  | c :: cs =>
    match parseBits cs with
    | none => none
    | some s => if c = '0' then some (false :: s) else if c = '1' then some (true :: s) else none

/-- A bit string as characters, first bit leftmost (R8). -/
def showBits (s : Bits) : List Char := s.map fun b => if b then '1' else '0'

/-- The canonical word `(OP<<12) | (L<<8) | pack(s)` of a command with operand `s` (R68). -/
def operandWord (op : Nibble) (s : Bits) : Word := commandWord op (BitVec.ofNat 4 s.length) (pack s)

/-- The canonical word `OP<<12` of a command with no operand (R68). -/
def plainWord (op : Nibble) : Word := commandWord op 0 0

/-- The word of an operand command; `none` is the assembler error for more than 8 bits (R68). The assembler does not
ask whether the block accepts the length. -/
def assembleOperand (op : Nibble) (quoted : List Char) : Option (List Word) :=
  match parseBits quoted with
  | none => none
  | some s => if s.length ≤ 8 then some [operandWord op s] else none

/-- The pieces of `s` that are `n` bits long, the last one shorter if `s` does not divide, in order: piece j is
s_{nj} … s_{min(nj+n, |s|)-1}, for j from 0 to `count` - 1 (R69, R151, R152, R153). -/
def pieces (n count : Nat) (s : Bits) : List Bits := (List.range count).map fun j => (s.drop (n * j)).take n

/-- The chunks of `CRCSHIFTS`: max(1, ceil(|s|/8)) of them (R69). -/
def crcChunks (s : Bits) : List Bits := pieces 8 (max 1 ((s.length + 7) / 8)) s

/-- `CRCSHIFTS` expanded (R69). -/
def crcshiftsWords (s : Bits) : List Word := (crcChunks s).map (operandWord 0x5)

/-- `CRCGEN` expanded: CRCINIT, CRCSHIFTS, CRCFINAL (R70). -/
def crcgenWords (m : Bits) : List Word := plainWord 0x4 :: (crcshiftsWords m ++ [plainWord 0x6])

/-- `CRCVERIFY` expanded: CRCINIT, CRCSHIFTS, CRCCHECK (R70). -/
def crcverifyWords (c : Bits) : List Word := plainWord 0x4 :: (crcshiftsWords c ++ [plainWord 0x7])

/-- The words of a line, or `none` for an assembler error (R68, R69, R70). -/
def assemble : AsmLine → Option (List Word)
  | .nop => some [plainWord 0x0]
  | .repdec quoted => assembleOperand 0x1 quoted
  | .hamenc quoted => assembleOperand 0x2 quoted
  | .hamdec quoted => assembleOperand 0x3 quoted
  | .crcinit => some [plainWord 0x4]
  | .crcshift quoted => assembleOperand 0x5 quoted
  | .crcfinal => some [plainWord 0x6]
  | .crccheck => some [plainWord 0x7]
  | .cmd w => some [w]
  | .crcshifts quoted => (parseBits quoted).map crcshiftsWords
  | .crcgen quoted => (parseBits quoted).map crcgenWords
  | .crcverify quoted => (parseBits quoted).map crcverifyWords

/-- A command's ignored bits are all 0, so its word is canonical (R62, R66). For an operand command the ignored bits
are DATA[7:LEN]; a length beyond 8 and an undefined opcode have no canonical word (R68). -/
def Instr.canonical : Instr → Bool
  | .nop len data => len == 0 && data == 0
  | .repdec len data => decide (len.toNat ≤ 8) && pack (operand len data) == data
  | .hamenc len data => decide (len.toNat ≤ 8) && pack (operand len data) == data
  | .hamdec len data => decide (len.toNat ≤ 8) && pack (operand len data) == data
  | .crcinit len data => len == 0 && data == 0
  | .crcshift len data => decide (len.toNat ≤ 8) && pack (operand len data) == data
  | .crcfinal len data => len == 0 && data == 0
  | .crccheck len data => len == 0 && data == 0
  | .undefined _ _ _ => false

/-- The mnemonic form of a command (R68). -/
def mnemonicLine : Instr → AsmLine
  | .nop _ _ => .nop
  | .repdec len data => .repdec (showBits (operand len data))
  | .hamenc len data => .hamenc (showBits (operand len data))
  | .hamdec len data => .hamdec (showBits (operand len data))
  | .crcinit _ _ => .crcinit
  | .crcshift len data => .crcshift (showBits (operand len data))
  | .crcfinal _ _ => .crcfinal
  | .crccheck _ _ => .crccheck
  | .undefined op len data => .cmd (commandWord op len data)

/-- The disassembler: the mnemonic form of a canonical word, and `.cmd` for any other (R68). -/
def disassemble (w : Word) : AsmLine :=
  if Instr.canonical (decode w) then mnemonicLine (decode w) else .cmd w

/-! ### Lines of text -/

/-- The double quote that stands around an operand (R68). -/
def quoteChar : Char := Char.ofNat 34

/-- The lines that take no operand (R68). -/
def plainForms : List (List Char × AsmLine) :=
  [ (['N', 'O', 'P'], .nop),
    (['C', 'R', 'C', 'I', 'N', 'I', 'T'], .crcinit),
    (['C', 'R', 'C', 'F', 'I', 'N', 'A', 'L'], .crcfinal),
    (['C', 'R', 'C', 'C', 'H', 'E', 'C', 'K'], .crccheck) ]

/-- The line of a mnemonic that takes a quoted bit string, by its mnemonic (R68, R69, R70). -/
def operandForm (mnemonic quoted : List Char) : Option AsmLine :=
  if mnemonic = ['R', 'E', 'P', 'D', 'E', 'C'] then some (.repdec quoted)
  else if mnemonic = ['H', 'A', 'M', 'E', 'N', 'C'] then some (.hamenc quoted)
  else if mnemonic = ['H', 'A', 'M', 'D', 'E', 'C'] then some (.hamdec quoted)
  else if mnemonic = ['C', 'R', 'C', 'S', 'H', 'I', 'F', 'T'] then some (.crcshift quoted)
  else if mnemonic = ['C', 'R', 'C', 'S', 'H', 'I', 'F', 'T', 'S'] then some (.crcshifts quoted)
  else if mnemonic = ['C', 'R', 'C', 'G', 'E', 'N'] then some (.crcgen quoted)
  else if mnemonic = ['C', 'R', 'C', 'V', 'E', 'R', 'I', 'F', 'Y'] then some (.crcverify quoted)
  else none

/-- The characters between the quotes of an operand. -/
def unquote : List Char → Option (List Char)
  | [] => none
  | c :: cs => if c = quoteChar ∧ cs.getLast? = some quoteChar then some cs.dropLast else none

/-- A hexadecimal digit of `.cmd` (R68). -/
def hexDigits : List Char :=
  ['0', '1', '2', '3', '4', '5', '6', '7', '8', '9', 'A', 'B', 'C', 'D', 'E', 'F']

/-- The value of a hexadecimal digit. -/
def hexValue (c : Char) : Option Nibble := (hexDigits.idxOf? c).map (BitVec.ofNat 4)

/-- The character of a hexadecimal digit. -/
def hexChar (v : Nibble) : Char := hexDigits.getD v.toNat '0'

/-- The word `0xHHHH` writes (R68). -/
def parseHexWord : List Char → Option Word
  | ['0', 'x', a, b, c, d] =>
    match hexValue a, hexValue b, hexValue c, hexValue d with
    | some a, some b, some c, some d => some (commandWord a b (c ++ d))
    | _, _, _, _ => none
  | _ => none

/-- `0xHHHH` for a word (R68). -/
def showHexWord (w : Word) : List Char :=
  ['0', 'x', hexChar (w.extractLsb' 12 4), hexChar (w.extractLsb' 8 4), hexChar (w.extractLsb' 4 4),
    hexChar (w.extractLsb' 0 4)]

/-- A line of text as R68 to R70 write it, or `none` for an assembler error: a mnemonic alone, or a mnemonic, one space
and its operand (log entry 14). -/
def parseLine (line : List Char) : Option AsmLine :=
  let mnemonic := line.takeWhile (· != ' ')
  let rest := line.drop (mnemonic.length + 1)
  match plainForms.lookup line with
  | some l => some l
  | none =>
    if mnemonic = ['.', 'c', 'm', 'd'] then (parseHexWord rest).map AsmLine.cmd
    else match unquote rest with
      | some quoted => operandForm mnemonic quoted
      | none => none

/-- An operand line: the mnemonic, one space, and the operand in quotes (R68). -/
def showOperandLine (mnemonic quoted : List Char) : List Char :=
  mnemonic ++ ' ' :: quoteChar :: (quoted ++ [quoteChar])

/-- The text of a line (R68 to R70). -/
def showLine : AsmLine → List Char
  | .nop => ['N', 'O', 'P']
  | .repdec quoted => showOperandLine ['R', 'E', 'P', 'D', 'E', 'C'] quoted
  | .hamenc quoted => showOperandLine ['H', 'A', 'M', 'E', 'N', 'C'] quoted
  | .hamdec quoted => showOperandLine ['H', 'A', 'M', 'D', 'E', 'C'] quoted
  | .crcinit => ['C', 'R', 'C', 'I', 'N', 'I', 'T']
  | .crcshift quoted => showOperandLine ['C', 'R', 'C', 'S', 'H', 'I', 'F', 'T'] quoted
  | .crcfinal => ['C', 'R', 'C', 'F', 'I', 'N', 'A', 'L']
  | .crccheck => ['C', 'R', 'C', 'C', 'H', 'E', 'C', 'K']
  | .cmd w => ['.', 'c', 'm', 'd', ' '] ++ showHexWord w
  | .crcshifts quoted => showOperandLine ['C', 'R', 'C', 'S', 'H', 'I', 'F', 'T', 'S'] quoted
  | .crcgen quoted => showOperandLine ['C', 'R', 'C', 'G', 'E', 'N'] quoted
  | .crcverify quoted => showOperandLine ['C', 'R', 'C', 'V', 'E', 'R', 'I', 'F', 'Y'] quoted

/-- The words of a line of text, or `none` for an assembler error (R68). -/
def assembleText (line : List Char) : Option (List Word) :=
  match parseLine line with
  | some l => assemble l
  | none => none

/-- The text the disassembler prints for a word (R68). -/
def disassembleText (w : Word) : List Char := showLine (disassemble w)

end Sys2Proof.Machine
end

