-- ==== Sys2Proof/Machine/Framing.lean ====
section
/-! DEFINITION. The host's framing and testbench functions of `spec/45_host_framing.md`. Nothing here is hardware of
the block: each function drives the block's own `step`, one command a step, and reads the output ports after it
(log entry 11). -/

namespace Sys2Proof.Machine

/-- The host issues one command: it presents it in the next step, and the block makes that step (R157, R21). -/
def issue (w : Word) (s : State) : Host.Outcome State Fault Refusal := step (s.present (.command w))

/-- The host issues commands one after the other, with no step between them. -/
def issueAll : List Word → State → Host.Outcome State Fault Refusal
  | [], s => .next s
  | w :: ws, s =>
    match issue w s with
    | .next t => issueAll ws t
    | .fault r => .fault r
    | .refused r => .refused r

/-- The host issues commands, reads the output ports after each, and joins what it reads. -/
def collect (read : PortOut → Bits) : List Word → State → Host.Outcome (Bits × State) Fault Refusal
  | [], s => .next ([], s)
  | w :: ws, s =>
    match issue w s with
    | .next t =>
      match collect read ws t with
      | .next (out, u) => .next (read t.outputs ++ out, u)
      | .fault r => .fault r
      | .refused r => .refused r
    | .fault r => .fault r
    | .refused r => .refused r

/-- `repetitionEncode` (R150): each bit three times. A testbench function. -/
def repetitionEncode (b : Bits) : Bits := b.flatMap fun x => [x, x, x]

/-- `repetitionDecode` of a string of any length (R151): chunks of 6 bits to REPDEC, reading RLEN bits of RDATA. -/
def repetitionDecode (c : Bits) (s : State) : Host.Outcome (Bits × State) Fault Refusal :=
  collect (fun o => unpack o.rdata o.rlen.toNat) ((pieces 6 ((c.length + 5) / 6) c).map (operandWord 0x1)) s

/-- Zero-padding of a short block on its right (R152). -/
def padBlock (block : Bits) : Bits := block ++ List.replicate (4 - block.length) false

/-- `hammingEncode` of a message of any length (R152): padded blocks of 4 bits to HAMENC. -/
def hammingEncode (m : Bits) (s : State) : Host.Outcome (Bits × State) Fault Refusal :=
  collect (fun o => unpack o.rdata 7)
    ((pieces 4 ((m.length + 3) / 4) m).map fun block => operandWord 0x2 (padBlock block)) s

/-- `hammingDecode` of a string of any length (R153): blocks of 7 bits to HAMDEC; `none` is ABSENT, for a length that is
no multiple of 7. Padding bits are not removed. -/
def hammingDecode (c : Bits) (s : State) : Host.Outcome (Option Bits × State) Fault Refusal :=
  if c.length % 7 = 0 then
    match collect (fun o => unpack o.rdata 4) ((pieces 7 (c.length / 7) c).map (operandWord 0x3)) s with
    | .next (out, t) => .next (some out, t)
    | .fault r => .fault r
    | .refused r => .refused r
  else .next (none, s)

/-- `crcEncode` (R154): CRCGEN, then the message and the checksum read from RDATA. -/
def crcEncode (m : Bits) (s : State) : Host.Outcome (Bits × State) Fault Refusal :=
  match issueAll (crcgenWords m) s with
  | .next t => .next (m ++ unpack t.outputs.rdata 4, t)
  | .fault r => .fault r
  | .refused r => .refused r

/-- `crcCheck` (R155): CRCVERIFY, then the verdict read from RDATA[0]. -/
def crcCheck (c : Bits) (s : State) : Host.Outcome (Bool × State) Fault Refusal :=
  match issueAll (crcverifyWords c) s with
  | .next t => .next (t.outputs.rdata.getLsbD 0, t)
  | .fault r => .fault r
  | .refused r => .refused r

/-- `flipBit` (R156): the bit at a 1-based position inverted; an absent position or one outside the string changes
nothing. A testbench function. -/
def flipBit (c : Bits) (position : Option Int) : Bits :=
  match position with
  | none => c
  | some p => if p < 1 ∨ (c.length : Int) < p then c else c.modify (p - 1).toNat (!·)

end Sys2Proof.Machine
end

