-- ==== Sys2Proof/Safety.lean ====
section
/-! DEFINITION. What counts as a legal register record, what a rejection leaves, and what is observed of a run, in the
terms the statements use. -/

namespace Sys2Proof.Machine

/-- RLEN takes only the values that some rule writes (R24). -/
abbrev Regs.rlenLegal (r : Regs) : Prop :=
  r.rlen = 0 ∨ r.rlen = 1 ∨ r.rlen = 2 ∨ r.rlen = 4 ∨ r.rlen = 7

/-- Bits RDATA[7:RLEN] are 0 (R23). -/
abbrev Regs.rdataLegal (r : Regs) : Prop := r.rdata.toNat < 2 ^ r.rlen.toNat

/-- U = 1 implies E = 1, and E = 1 implies V = 0 (R27). -/
abbrev Regs.statusLegal (r : Regs) : Prop :=
  (flagU r.status = true → flagE r.status = true) ∧ (flagE r.status = true → flagV r.status = false)

/-- A result that is absent reads as the empty one: DEDUCED from R171 and R190, not a sentence of the spec (log entry 15). -/
abbrev Regs.absentLegal (r : Regs) : Prop := flagV r.status = false → r.rdata = 0 ∧ r.rlen = 0

/-- The register records that the rules allow: RLEN by R24, RDATA by R23, STATUS by R27, and the empty absent result that
log entry 15 deduces from R171 and R190. -/
abbrev Regs.Legal (r : Regs) : Prop := r.rlenLegal ∧ r.rdataLegal ∧ r.statusLegal ∧ r.absentLegal

/-- The four flags of STATUS, in the order V, E, Z, U (R27). -/
abbrev State.flagsAre (t : State) (v e z u : Bool) : Prop :=
  flagV t.regs.status = v ∧ flagE t.regs.status = e ∧ flagZ t.regs.status = z ∧ flagU t.regs.status = u

/-- `t` is `s` after `reject(kind)` and nothing else (R171). -/
def Rejects (kind : RejectKind) (s t : State) : Prop :=
  t.regs.rdata = 0x00 ∧ t.regs.rlen = 0 ∧
  t.flagsAre false true (flagZ s.regs.status) (decide (kind = .opcode)) ∧
  t.regs.syn = s.regs.syn ∧ t.regs.crcRem = s.regs.crcRem ∧ t.inputs = s.inputs

/-- The bits a command shifts into the divider: those of an accepted CRCSHIFT (R132, R136). -/
def streamBits : Instr → Bits
  | .crcshift len data => if len.toNat ≤ 8 then operand len data else []
  | .nop _ _ => []
  | .repdec _ _ => []
  | .hamenc _ _ => []
  | .hamdec _ _ => []
  | .crcinit _ _ => []
  | .crcfinal _ _ => []
  | .crccheck _ _ => []
  | .undefined _ _ _ => []

/-- The commands that write CRC_REM other than by shifting a message in: CRCINIT and CRCFINAL (R26, R136). -/
def breaksStream : Instr → Bool
  | .crcinit _ _ => true
  | .crcfinal _ _ => true
  | .nop _ _ => false
  | .repdec _ _ => false
  | .hamenc _ _ => false
  | .hamdec _ _ => false
  | .crcshift _ _ => false
  | .crccheck _ _ => false
  | .undefined _ _ _ => false

/-- The observation of a run: the output ports after each of `n` steps (R18). It ends early only where a step does not
answer a next state. -/
def observe : Nat → State → List PortOut
  | 0, _ => []
  | n + 1, s =>
    match step s with
    | .next t => t.outputs :: observe n t
    | .fault _ => []
    | .refused _ => []

end Sys2Proof.Machine
end

