-- ==== Sys2Proof/Certificates/Slice0/Obligations.lean ====
section
/-! DEFINITION. The statements for the provers. Each docstring names the rule of spec/ it formalises. Every statement
about a command says what the command leaves unchanged: each register it does not write, and the pending samples
`inputs`, which are the model's own field (log entry 1). The block has no memory and no program counter, so no statement
has a frame for them. -/

open Sys2Proof Sys2Proof.Machine

/-! ### Encoding -/

/-- R60: the fields OP, LEN, DATA of a word, and the word of three fields, as numbers. -/
def Obligations.CommandFieldsArePlaced : Prop :=
  (∀ w : Word, (opField w).toNat = w.toNat / 4096 ∧ (lenField w).toNat = w.toNat / 256 % 16 ∧
    (dataField w).toNat = w.toNat % 256) ∧
  (∀ (op len : Nibble) (data : Byte),
    (commandWord op len data).toNat = op.toNat * 4096 + len.toNat * 256 + data.toNat)

/-- Decoding the word of a well-formed command gives the command back, with every operand at every value. -/
def Obligations.DecodeOfEncodeIsInstr : Prop :=
  ∀ i : Instr, i.wellFormed = true → decode (encode i) = i

/-- R64, "All 2^16 words are decoded": every word decodes to a well-formed command whose word it is. -/
def Obligations.EncodeOfDecodeIsWord : Prop :=
  ∀ w : Word, (decode w).wellFormed = true ∧ encode (decode w) = w

/-- R63: each word belongs to exactly one row of the opcode table, the one of its decoded command. -/
def Obligations.OpcodeTableHasOneRowPerWord : Prop :=
  ∀ w : Word, (opcodeTable.filter fun row => row.covers w).map OpcodeRow.mnemonic = [(decode w).mnemonic]

/-- Words of R68 and of `spec/95_test_vectors.md` decode to the commands they are written for. -/
def Obligations.SpecExampleWordsDecode : Prop :=
  decode 0x0FFF = .nop 15 0xFF ∧ decode 0x1638 = .repdec 6 0b111000 ∧ decode 0x240B = .hamenc 4 0b1011 ∧
  decode 0x3733 = .hamdec 7 0b0110011 ∧ decode 0x4000 = .crcinit 0 0 ∧ decode 0x5516 = .crcshift 5 0b10110 ∧
  decode 0x6000 = .crcfinal 0 0 ∧ decode 0x7000 = .crccheck 0 0 ∧ decode 0x8123 = .undefined 8 1 0x23

/-- R64: the accepted words are these, an accepted word sets no error, and every other word executes reject, with kind
OPCODE for OP of 8 and above and LENGTH otherwise. An accepted NOP leaves the flags as they are (R170). -/
def Obligations.AcceptedWordsAreExactlyThese : Prop :=
  ∀ (w : Word) (s : State),
    let op := w.toNat / 4096
    let len := w.toNat / 256 % 16
    if (op = 0 ∨ op = 4 ∨ op = 6 ∨ op = 7) ∨ ((op = 1 ∨ op = 5) ∧ len ≤ 8) ∨ (op = 2 ∧ len = 4) ∨ (op = 3 ∧ len = 7) then
      accepted w = true ∧ (decode w).rejection = none ∧
        ∃ t, exec (decode w) s = .next t ∧
          (op = 0 → t = s) ∧ (op ≠ 0 → flagE t.regs.status = false ∧ flagU t.regs.status = false)
    else
      accepted w = false ∧
        ∃ t, (decode w).rejection = some (if 8 ≤ op then .opcode else .length) ∧
          exec (decode w) s = .next t ∧ Rejects (if 8 ≤ op then .opcode else .length) s t

/-- R66 and R62: LEN and DATA of NOP, CRCINIT, CRCFINAL, CRCCHECK and of an undefined opcode, and DATA[7:LEN] of an
operand command, change no result, and a command completes with any value of them. -/
def Obligations.IgnoredFieldsChangeNothing : Prop :=
  (∀ (op op' len len' : Nibble) (data data' : Byte) (s : State),
    (∃ t, exec (.nop len data) s = .next t ∧ exec (.nop len' data') s = .next t) ∧
    (∃ t, exec (.crcinit len data) s = .next t ∧ exec (.crcinit len' data') s = .next t) ∧
    (∃ t, exec (.crcfinal len data) s = .next t ∧ exec (.crcfinal len' data') s = .next t) ∧
    (∃ t, exec (.crccheck len data) s = .next t ∧ exec (.crccheck len' data') s = .next t) ∧
    (∃ t, exec (.undefined op len data) s = .next t ∧ exec (.undefined op' len' data') s = .next t)) ∧
  (∀ (len : Nibble) (data data' : Byte) (s : State),
    (∀ j < len.toNat, data.getLsbD j = data'.getLsbD j) →
    (∃ t, exec (.repdec len data) s = .next t ∧ exec (.repdec len data') s = .next t) ∧
    (∃ t, exec (.hamenc len data) s = .next t ∧ exec (.hamenc len data') s = .next t) ∧
    (∃ t, exec (.hamdec len data) s = .next t ∧ exec (.hamdec len data') s = .next t) ∧
    (∃ t, exec (.crcshift len data) s = .next t ∧ exec (.crcshift len data') s = .next t))

/-- R68: the disassembler's line assembles to the word it was made from, and the line of an operand of at most 8 bits
assembles to `(OP<<12) | (L<<8) | pack(s)`, whose disassembly is that line. -/
def Obligations.AssemblerRoundTrip : Prop :=
  (∀ w : Word, assemble (disassemble w) = some [w]) ∧
  (∀ s : Bits, s.length ≤ 8 →
    assemble (.repdec (showBits s)) = some [operandWord 0x1 s] ∧
    assemble (.hamenc (showBits s)) = some [operandWord 0x2 s] ∧
    assemble (.hamdec (showBits s)) = some [operandWord 0x3 s] ∧
    assemble (.crcshift (showBits s)) = some [operandWord 0x5 s] ∧
    disassemble (operandWord 0x1 s) = .repdec (showBits s) ∧
    disassemble (operandWord 0x2 s) = .hamenc (showBits s) ∧
    disassemble (operandWord 0x3 s) = .hamdec (showBits s) ∧
    disassemble (operandWord 0x5 s) = .crcshift (showBits s))

/-- R68 to R70: the text of every line reads back as the line, so the text printed for a word assembles to the word. The
white space and the capitals of a line are the MODEL's choice (log entry 14). -/
def Obligations.AssemblyTextRoundTrip : Prop :=
  (∀ l : AsmLine, parseLine (showLine l) = some l) ∧
  (∀ w : Word, assembleText (disassembleText w) = some [w])

/-! ### NOP and undefined opcodes -/

/-- R170: NOP writes no register, STATUS included, and its step is the same as an idle step. -/
def Obligations.NopWritesNothing : Prop :=
  ∀ (len : Nibble) (data : Byte) (s : State),
    decode (commandWord 0x0 len data) = .nop len data ∧
    exec (.nop len data) s = .next s ∧
    step (s.present (.command (commandWord 0x0 len data))) = step (s.present .idle)

/-- R172: an opcode of 8 and above executes reject(OPCODE), whatever LEN and DATA hold. -/
def Obligations.UndefinedOpcodesAreRejected : Prop :=
  ∀ (op len : Nibble) (data : Byte) (s : State), 8 ≤ op.toNat →
    decode (commandWord op len data) = .undefined op len data ∧
    ∃ t, exec (.undefined op len data) s = .next t ∧ Rejects .opcode s t

/-! ### repetition_triplet_decoder -/

/-- R101: REPDEC of L bits, with the first received bit at DATA[L-1]. -/
def Obligations.RepdecDecodesTriplets : Prop :=
  ∀ (len : Nibble) (data : Byte) (s : State),
    decode (commandWord 0x1 len data) = .repdec len data ∧
    (len.toNat ≤ 8 → ∃ t, exec (.repdec len data) s = .next t ∧
      t.regs.rlen.toNat = len.toNat / 3 ∧
      (∀ k < len.toNat / 3, t.regs.rdata.getLsbD (len.toNat / 3 - 1 - k) =
        maj (data.getLsbD (len.toNat - 1 - 3 * k)) (data.getLsbD (len.toNat - 1 - (3 * k + 1)))
          (data.getLsbD (len.toNat - 1 - (3 * k + 2)))) ∧
      (∀ j, len.toNat / 3 ≤ j → t.regs.rdata.getLsbD j = false) ∧
      t.flagsAre true false (flagZ s.regs.status) false ∧
      t.regs.syn = s.regs.syn ∧ t.regs.crcRem = s.regs.crcRem ∧ t.inputs = s.inputs) ∧
    (8 < len.toNat → ∃ t, exec (.repdec len data) s = .next t ∧ Rejects .length s t)

/-- R102: REPDEC of a string does what REPDEC of its complete triplets does. -/
def Obligations.RepdecDropsPartialTriplet : Prop :=
  ∀ (b : Bits) (s : State), b.length ≤ 8 →
    ∃ t, exec (decode (operandWord 0x1 b)) s = .next t ∧
      exec (decode (operandWord 0x1 (b.take (3 * (b.length / 3))))) s = .next t

/-- R103: a triplet b b b with at most one bit flipped decodes to b, with two or three to its complement, and STATUS is
the same in every case. -/
def Obligations.RepdecCorrectsOneFlip : Prop :=
  ∀ (b e0 e1 e2 : Bool) (s : State),
    ∃ t, exec (.repdec 3 (pack [b ^^ e0, b ^^ e1, b ^^ e2])) s = .next t ∧
      t.regs.rlen = 1 ∧
      t.regs.rdata = pack [if e0.toNat + e1.toNat + e2.toNat ≤ 1 then b else !b] ∧
      t.flagsAre true false (flagZ s.regs.status) false

/-- R104: REPDEC returns a string of one or two bits from its repetition encoding. -/
def Obligations.RepdecRoundTrip : Prop :=
  ∀ (b : Bits) (s : State), b.length = 1 ∨ b.length = 2 →
    ∃ t, exec (decode (operandWord 0x1 (repetitionEncode b))) s = .next t ∧
      t.regs.rdata = pack b ∧ t.regs.rlen.toNat = b.length

/-- R150, R151: the host's repetitionDecode of any string is one majority bit for each complete triplet, issues nothing
for the empty string, and undoes repetitionEncode. -/
def Obligations.RepetitionDecodeOfWholeString : Prop :=
  (∀ (c : Bits) (s : State), ∃ out t, repetitionDecode c s = .next (out, t) ∧
    out.length = c.length / 3 ∧ (c = [] → t = s) ∧
    ∀ k < c.length / 3, out.getD k false =
      maj (c.getD (3 * k) false) (c.getD (3 * k + 1) false) (c.getD (3 * k + 2) false)) ∧
  (∀ (b : Bits) (s : State), ∃ t, repetitionDecode (repetitionEncode b) s = .next (b, t))

/-! ### hamming_7_4_encoder and hamming_syndrome_decoder -/

/-- R111: the codeword p1 p2 d0 p3 d1 d2 d3 of d0 = DATA[3] to d3 = DATA[0], at RDATA[6] to RDATA[0]. -/
def Obligations.HamencComputesCodeword : Prop :=
  ∀ (len : Nibble) (data : Byte) (s : State),
    let d0 := data.getLsbD 3
    let d1 := data.getLsbD 2
    let d2 := data.getLsbD 1
    let d3 := data.getLsbD 0
    decode (commandWord 0x2 len data) = .hamenc len data ∧
    (len.toNat = 4 → ∃ t, exec (.hamenc len data) s = .next t ∧
      t.regs.rdata.getLsbD 7 = false ∧ t.regs.rdata.getLsbD 6 = (d0 ^^ d1 ^^ d3) ∧
      t.regs.rdata.getLsbD 5 = (d0 ^^ d2 ^^ d3) ∧ t.regs.rdata.getLsbD 4 = d0 ∧
      t.regs.rdata.getLsbD 3 = (d1 ^^ d2 ^^ d3) ∧ t.regs.rdata.getLsbD 2 = d1 ∧
      t.regs.rdata.getLsbD 1 = d2 ∧ t.regs.rdata.getLsbD 0 = d3 ∧
      t.regs.rlen = 7 ∧ t.flagsAre true false (flagZ s.regs.status) false ∧
      t.regs.syn = s.regs.syn ∧ t.regs.crcRem = s.regs.crcRem ∧ t.inputs = s.inputs) ∧
    (len.toNat ≠ 4 → ∃ t, exec (.hamenc len data) s = .next t ∧ Rejects .length s t)

/-- R113: the encoder is linear, codewords of different data differ in at least 3 positions (so it is injective), and
every codeword passes the parity checks. -/
def Obligations.HamencIsLinearWithDistanceThree : Prop :=
  ∀ (a b : Byte) (s : State), ∃ ta tb tab u,
    exec (.hamenc 4 a) s = .next ta ∧ exec (.hamenc 4 b) s = .next tb ∧ exec (.hamenc 4 (a ^^^ b)) s = .next tab ∧
    tab.regs.rdata = ta.regs.rdata ^^^ tb.regs.rdata ∧
    (a.setWidth 4 ≠ b.setWidth 4 →
      3 ≤ (List.range 8).countP fun j => ta.regs.rdata.getLsbD j != tb.regs.rdata.getLsbD j) ∧
    exec (.hamdec 7 ta.regs.rdata) s = .next u ∧ u.regs.syn = 0

/-- R121 and R120: the syndrome of c1 = DATA[6] to c7 = DATA[0], the correction of the position it names, and the data
bits of the corrected word. -/
def Obligations.HamdecCorrectsNamedPosition : Prop :=
  ∀ (len : Nibble) (data : Byte) (s : State),
    let c := fun p : Nat => data.getLsbD (7 - p)
    let s1 := c 1 ^^ c 3 ^^ c 5 ^^ c 7
    let s2 := c 2 ^^ c 3 ^^ c 6 ^^ c 7
    let s3 := c 4 ^^ c 5 ^^ c 6 ^^ c 7
    let syn := s1.toNat + 2 * s2.toNat + 4 * s3.toNat
    decode (commandWord 0x3 len data) = .hamdec len data ∧
    (len.toNat = 7 → ∃ t, exec (.hamdec len data) s = .next t ∧
      t.regs.syn.toNat = syn ∧
      t.regs.rdata.toNat < 16 ∧
      t.regs.rdata.getLsbD 3 = (c 3 ^^ decide (syn = 3)) ∧ t.regs.rdata.getLsbD 2 = (c 5 ^^ decide (syn = 5)) ∧
      t.regs.rdata.getLsbD 1 = (c 6 ^^ decide (syn = 6)) ∧ t.regs.rdata.getLsbD 0 = (c 7 ^^ decide (syn = 7)) ∧
      t.regs.rlen = 4 ∧ t.flagsAre true false (decide (syn = 0)) false ∧
      t.regs.crcRem = s.regs.crcRem ∧ t.inputs = s.inputs) ∧
    (len.toNat ≠ 7 → ∃ t, exec (.hamdec len data) s = .next t ∧ Rejects .length s t)

/-- R122: a codeword, unchanged or with one position flipped, decodes to its data, with SYN the flipped position or 0. -/
def Obligations.HamdecCorrectsSingleErrors : Prop :=
  ∀ (data : Byte) (s : State), ∃ t, exec (.hamenc 4 data) s = .next t ∧
    (∃ u, exec (.hamdec 7 t.regs.rdata) t = .next u ∧ u.regs.syn = 0 ∧ u.regs.rdata = data &&& 0x0F) ∧
    (∀ p, 1 ≤ p → p ≤ 7 → ∃ u, exec (.hamdec 7 (t.regs.rdata ^^^ (1#8 <<< (7 - p)))) t = .next u ∧
      u.regs.syn.toNat = p ∧ u.regs.rdata = data &&& 0x0F)

/-- R123 and R124: with two or three positions of a codeword flipped, SYN is their exclusive or, Z says only that it is
0, the data is wrong, and V, E, U are as in a correct decoding. -/
def Obligations.HamdecMiscorrectsMultipleErrors : Prop :=
  ∀ (data : Byte) (s : State), ∃ t, exec (.hamenc 4 data) s = .next t ∧
    (∀ a b, 1 ≤ a → a < b → b ≤ 7 →
      ∃ u, exec (.hamdec 7 (t.regs.rdata ^^^ (1#8 <<< (7 - a)) ^^^ (1#8 <<< (7 - b)))) t = .next u ∧
        u.regs.syn.toNat = a ^^^ b ∧ u.regs.syn.toNat ≠ 0 ∧ u.regs.syn.toNat ≠ a ∧ u.regs.syn.toNat ≠ b ∧
        u.regs.rdata ≠ data &&& 0x0F ∧ u.flagsAre true false false false) ∧
    (∀ a b c, 1 ≤ a → a < b → b < c → c ≤ 7 →
      ∃ u, exec (.hamdec 7 (t.regs.rdata ^^^ (1#8 <<< (7 - a)) ^^^ (1#8 <<< (7 - b)) ^^^ (1#8 <<< (7 - c)))) t = .next u ∧
        u.regs.syn.toNat = a ^^^ b ^^^ c ∧ u.regs.rdata ≠ data &&& 0x0F ∧
        u.flagsAre true false (decide (a ^^^ b ^^^ c = 0)) false)

/-- R152, R153: the host's hammingEncode gives 7 bits for each block of 4, hammingDecode gives the message back with the
padding of its last block kept, and a length that is no multiple of 7 is ABSENT, with no command issued. -/
def Obligations.HammingMessageRoundTrip : Prop :=
  (∀ (m : Bits) (s : State), ∃ out t u, hammingEncode m s = .next (out, t) ∧
    out.length = 7 * ((m.length + 3) / 4) ∧
    hammingDecode out t = .next (some (m ++ List.replicate (4 * ((m.length + 3) / 4) - m.length) false), u)) ∧
  (∀ (c : Bits) (s : State), c.length % 7 ≠ 0 → hammingDecode c s = .next (none, s))

/-! ### crc_4_generator -/

/-- R131: one division step, as the datapath and in polynomial terms, (r·x + b) mod G, and its repetition over a string
from its first bit. -/
def Obligations.CrcStepDividesPolynomial : Prop :=
  ∀ (r : Nibble) (b : Bool) (s : Bits),
    crcShift r [] = r ∧ crcShift r (b :: s) = crcShift (crcStep r b) s ∧
    (crcStep r b).toNat = (2 * r.toNat + b.toNat) % 16 ^^^ (if r.getLsbD 3 then 0b0011 else 0b0000) ∧
    IsRemainder (crcStep r b) (polyOfRemainder r * Polynomial.X + Polynomial.C (bitCoeff b))

/-- R130: CRCINIT clears CRC_REM and sets Z, and keeps RDATA, RLEN, SYN and V. -/
def Obligations.CrcinitStartsDivision : Prop :=
  ∀ (len : Nibble) (data : Byte) (s : State),
    decode (commandWord 0x4 len data) = .crcinit len data ∧
    ∃ t, exec (.crcinit len data) s = .next t ∧ t.regs.crcRem = 0 ∧
      t.flagsAre (flagV s.regs.status) false true false ∧ t.regs.rdata = s.regs.rdata ∧
      t.regs.rlen = s.regs.rlen ∧ t.regs.syn = s.regs.syn ∧ t.inputs = s.inputs

/-- R132: CRCSHIFT of L bits leaves (r·x^L + poly(s)) mod G, the division step over the operand from its first bit. -/
def Obligations.CrcshiftDividesOperand : Prop :=
  ∀ (len : Nibble) (data : Byte) (s : State),
    let bits : Bits := (List.range len.toNat).map fun i => data.getLsbD (len.toNat - 1 - i)
    decode (commandWord 0x5 len data) = .crcshift len data ∧
    (len.toNat ≤ 8 → ∃ t, exec (.crcshift len data) s = .next t ∧
      t.regs.crcRem = crcShift s.regs.crcRem bits ∧
      IsRemainder t.regs.crcRem (polyOfRemainder s.regs.crcRem * Polynomial.X ^ len.toNat + polyOfBits bits) ∧
      t.regs.rdata.toNat = t.regs.crcRem.toNat ∧ t.regs.rlen = 4 ∧
      t.flagsAre true false (decide (t.regs.crcRem = 0)) false ∧
      t.regs.syn = s.regs.syn ∧ t.inputs = s.inputs) ∧
    (8 < len.toNat → ∃ t, exec (.crcshift len data) s = .next t ∧ Rejects .length s t)

/-- R133: CRCFINAL shifts four zeros in, leaves r·x⁴ mod G in CRC_REM and delivers it. -/
def Obligations.CrcfinalDeliversChecksum : Prop :=
  ∀ (len : Nibble) (data : Byte) (s : State),
    decode (commandWord 0x6 len data) = .crcfinal len data ∧
    ∃ t, exec (.crcfinal len data) s = .next t ∧
      t.regs.crcRem = crcShift s.regs.crcRem [false, false, false, false] ∧
      IsRemainder t.regs.crcRem (polyOfRemainder s.regs.crcRem * Polynomial.X ^ 4) ∧
      t.regs.rdata.toNat = t.regs.crcRem.toNat ∧ t.regs.rlen = 4 ∧
      t.flagsAre true false (decide (t.regs.crcRem = 0)) false ∧
      t.regs.syn = s.regs.syn ∧ t.inputs = s.inputs

/-- R134: CRCCHECK delivers whether CRC_REM is 0, as a 1-bit string and in Z. -/
def Obligations.CrccheckDeliversVerdict : Prop :=
  ∀ (len : Nibble) (data : Byte) (s : State),
    decode (commandWord 0x7 len data) = .crccheck len data ∧
    ∃ t, exec (.crccheck len data) s = .next t ∧
      t.regs.rdata.toNat = (if s.regs.crcRem.toNat = 0 then 1 else 0) ∧ t.regs.rlen = 1 ∧
      t.flagsAre true false (decide (s.regs.crcRem.toNat = 0)) false ∧
      t.regs.crcRem = s.regs.crcRem ∧ t.regs.syn = s.regs.syn ∧ t.inputs = s.inputs

/-- R135: for every dividend of at least 5 bits, the source's division over a 5-bit window returns what the 4-bit
divider register holds, first bit first. -/
def Obligations.WindowDivisionEqualsDivider : Prop :=
  ∀ d : Bits, 5 ≤ d.length → windowDivide d = unpack (zext8 (crcShift 0 d)) 4

/-- R136: after CRCINIT, or after a reset step, CRC_REM is the remainder of the concatenation of the shifted operands,
whatever commands that do not write CRC_REM stand between them and wherever the string is cut. -/
def Obligations.CrcStreamIsRemainder : Prop :=
  ∀ (cs : List Instr) (s : State), (∀ i ∈ cs, i.wellFormed = true ∧ breaksStream i = false) →
    let bits := cs.flatMap streamBits
    (∃ t, issueAll (plainWord 0x4 :: cs.map encode) s = .next t ∧
      t.regs.crcRem = crcShift 0 bits ∧ IsRemainder t.regs.crcRem (polyOfBits bits)) ∧
    (∃ r t, step (s.present .reset) = .next r ∧ issueAll (cs.map encode) r = .next t ∧
      t.regs.crcRem = crcShift 0 bits ∧ IsRemainder t.regs.crcRem (polyOfBits bits))

/-- R137: the commands of CRCGEN leave the remainder of poly(m)·x⁴ in CRC_REM and RDATA[3:0], with RLEN = 4, and the
checksum is the final remainder of the source's window procedure where that is defined. -/
def Obligations.CrcgenLeavesChecksum : Prop :=
  ∀ (m : Bits) (s : State), ∃ t, issueAll (crcgenWords m) s = .next t ∧
    IsRemainder t.regs.crcRem (polyOfBits m * Polynomial.X ^ 4) ∧
    IsRemainder t.regs.crcRem (polyOfBits (m ++ [false, false, false, false])) ∧
    t.regs.rdata.setWidth 4 = t.regs.crcRem ∧ t.regs.rlen = 4 ∧
    (m ≠ [] → unpack t.regs.rdata 4 = windowDivide (m ++ [false, false, false, false]))

/-- R138: the commands of CRCVERIFY leave RDATA[0] = 1 exactly for the strings that G divides, and every codeword that
crcEncode makes is one. -/
def Obligations.CrcverifyAcceptsCodewords : Prop :=
  (∀ (c : Bits) (s : State), ∃ ok t, crcCheck c s = .next (ok, t) ∧ t.regs.rdata.getLsbD 0 = ok ∧
    (ok = true ↔ polyOfBits c %ₘ generatorPoly = 0) ∧
    (5 ≤ c.length → (ok = true ↔ windowDivide c = [false, false, false, false]))) ∧
  (∀ (m : Bits) (s : State), ∃ c t u, crcEncode m s = .next (c, t) ∧
    c = m ++ unpack t.regs.rdata 4 ∧ crcCheck c t = .next (true, u))

/-- R139: a codeword with any one bit flipped does not pass the check. -/
def Obligations.CrcverifyDetectsSingleFlips : Prop :=
  ∀ (m : Bits) (s : State), ∃ c t, crcEncode m s = .next (c, t) ∧ c.length = m.length + 4 ∧
    ∀ p : Nat, 1 ≤ p → p ≤ c.length → ∃ u, crcCheck (flipBit c (some p)) t = .next (false, u)

/-- R140: the empty message has the checksum 0000, and a codeword of fewer than 5 bits, the empty one too, passes the
check exactly when all its bits are 0. -/
def Obligations.CrcShortInputs : Prop :=
  ∀ s : State,
    (∃ t, crcEncode [] s = .next ([false, false, false, false], t)) ∧
    (∀ c : Bits, c.length ≤ 4 → ∃ t, crcCheck c s = .next (!c.any id, t))

/-! ### Flags, registers and steps -/

/-- R27 and R173: how each command writes V, E, Z, U. NOP writes none. -/
def Obligations.FlagsFollowTheirWriters : Prop :=
  ∀ (i : Instr) (s : State), ∃ t, exec i s = .next t ∧
    (i.opcode = 0x0 → i.wellFormed = true → t.regs.status = s.regs.status) ∧
    (i.opcode ≠ 0x0 → i.wellFormed = true →
      flagE t.regs.status = i.rejection.isSome ∧
      flagU t.regs.status = decide (i.rejection = some .opcode) ∧
      flagV t.regs.status =
        (if i.rejection.isSome then false else if i.opcode = 0x4 then flagV s.regs.status else true) ∧
      flagZ t.regs.status =
        (if i.rejection.isSome ∨ i.opcode = 0x1 ∨ i.opcode = 0x2 then flagZ s.regs.status
         else if i.opcode = 0x3 then decide (t.regs.syn = 0) else decide (t.regs.crcRem = 0)))

/-- R23, R25, R26: SYN changes only by a HAMDEC of length 7, CRC_REM only by CRCINIT, CRCFINAL and an accepted
CRCSHIFT, RDATA, RLEN and V by neither NOP nor CRCINIT, and no command touches what the host will present. -/
def Obligations.RegistersChangeOnlyByTheirWriters : Prop :=
  ∀ (i : Instr) (s t : State), exec i s = .next t →
    (t.regs.syn ≠ s.regs.syn → ∃ data, i = .hamdec 7 data) ∧
    (t.regs.crcRem ≠ s.regs.crcRem → (∃ len data, i = .crcinit len data) ∨ (∃ len data, i = .crcfinal len data) ∨
      ∃ len data, i = .crcshift len data ∧ len.toNat ≤ 8) ∧
    (t.regs.rdata ≠ s.regs.rdata ∨ t.regs.rlen ≠ s.regs.rlen ∨ flagV t.regs.status ≠ flagV s.regs.status →
      ¬ (∃ len data, i = .nop len data) ∧ ¬ ∃ len data, i = .crcinit len data) ∧
    t.inputs = s.inputs

/-- R29: what REPDEC, HAMENC and HAMDEC write depends on the command alone, and Z of HAMDEC too. -/
def Obligations.CombinationalUnitsKeepNothing : Prop :=
  ∀ (i : Instr) (s s' : State), i.opcode = 0x1 ∨ i.opcode = 0x2 ∨ i.opcode = 0x3 → i.wellFormed = true →
    ∃ t t', exec i s = .next t ∧ exec i s' = .next t' ∧
      t.regs.rdata = t'.regs.rdata ∧ t.regs.rlen = t'.regs.rlen ∧
      flagV t.regs.status = flagV t'.regs.status ∧ flagE t.regs.status = flagE t'.regs.status ∧
      flagU t.regs.status = flagU t'.regs.status ∧
      (i.opcode = 0x3 → i.rejection = none →
        t.regs.syn = t'.regs.syn ∧ flagZ t.regs.status = flagZ t'.regs.status)

/-- R47: which commands are idempotent, and that CRCSHIFT and CRCFINAL are not in general. -/
def Obligations.IdempotentCommands : Prop :=
  (∀ (i : Instr) (s : State), i.opcode ≠ 0x5 → i.opcode ≠ 0x6 → i.wellFormed = true →
    ∃ t, exec i s = .next t ∧ exec i t = .next t) ∧
  (∀ (data : Byte) (s : State), ∃ t, exec (.crcshift 0 data) s = .next t ∧ exec (.crcshift 0 data) t = .next t) ∧
  (∀ (len : Nibble) (data : Byte) (s : State), s.regs.crcRem = 0b0001 →
    ∃ t u, exec (.crcfinal len data) s = .next t ∧ exec (.crcfinal len data) t = .next u ∧
      t.regs.crcRem = 0b0011 ∧ u.regs.crcRem = 0b0101) ∧
  (∀ len : Nibble, 1 ≤ len.toNat → len.toNat ≤ 8 → ∃ (data : Byte) (s t u : State),
    exec (.crcshift len data) s = .next t ∧ exec (.crcshift len data) t = .next u ∧ t ≠ u)

/-- R190: a reset step gives every register its reset value and executes no command, whatever the other ports hold; the
machine at reset holds these values. -/
def Obligations.ResetStepSetsEveryRegister : Prop :=
  (∀ (s : State) (valid : Bool) (w : Word),
    ∃ t, step (s.present { rst := true, cmdValid := valid, cmd := w }) = .next t ∧
      t.regs = { rdata := 0x00, rlen := 0, syn := 0, crcRem := 0b0000, status := 0b0000 } ∧ t.inputs = s.inputs) ∧
  State.reset.regs = { rdata := 0x00, rlen := 0, syn := 0, crcRem := 0b0000, status := 0b0000 }

/-- R21: a step is a reset step, an idle step or a command step, by `rst` and `cmd_valid`; an idle step changes no
register, a command step executes the command on `cmd`, and each completes. -/
def Obligations.StepKindsFollowThePorts : Prop :=
  ∀ (s : State) (valid : Bool) (w : Word),
    (∃ t, step (s.present { rst := true, cmdValid := valid, cmd := w }) = .next t ∧
      t.regs = Regs.reset ∧ t.inputs = s.inputs) ∧
    step (s.present { rst := false, cmdValid := false, cmd := w }) = .next s ∧
    (∃ t, step (s.present { rst := false, cmdValid := true, cmd := w }) = .next t ∧ exec (decode w) s = .next t)

/-- The MODEL's choice (log entry 2): a step for which the host has listed no sample is an idle step. -/
def Obligations.UnlistedStepIsIdle : Prop :=
  ∀ s : State, s.inputs = [] → step s = .next s

/-- A command step executes the command that the word on `cmd` decodes to, on the registers as they are, and the
samples of the later steps remain (R21; the list of samples is the model's own, log entry 1). -/
def Obligations.StepRunsDecodedCommand : Prop :=
  (∀ (i : Instr) (s : State) (rest : List PortIn), i.wellFormed = true →
    s.inputs = { rst := false, cmdValid := true, cmd := encode i } :: rest →
    step s = exec i { s with inputs := rest }) ∧
  (∀ (w : Word) (s : State) (rest : List PortIn),
    s.inputs = { rst := false, cmdValid := true, cmd := w } :: rest →
    step s = exec (decode w) { s with inputs := rest })

/-- R21, R202: the block completes every step, from any state, and takes one listed sample in it (log entry 1). -/
def Obligations.EveryStepCompletes : Prop :=
  ∀ s : State, ∃ t, step s = .next t ∧ t.inputs = s.inputs.tail

/-- R18, R202: a run of any number of steps from any state is observed after each step, none missing: the first
observation is the output ports after the first step, each the register of its name, and the rest are those of the run
from there. -/
def Obligations.RunsNeverStop : Prop :=
  ∀ (n : Nat) (s : State), (observe n s).length = n ∧
    ∃ t, step s = .next t ∧ observe (n + 1) s =
      { rdata := t.regs.rdata, rlen := t.regs.rlen, syn := t.regs.syn, crcRem := t.regs.crcRem,
        status := t.regs.status } :: observe n t

/-- Every step keeps the register record legal: RDATA[7:RLEN] is 0 (R23), RLEN is 0, 1, 2, 4 or 7 (R24), U implies E and E
implies not V (R27). That V = 0 comes only with RDATA = 0 and RLEN = 0 is no sentence of the spec: it is the MODEL's
inference from R171 and R190, log entry 15 (DEDUCED). -/
def Obligations.LegalRegistersAreKept : Prop :=
  ∀ s t : State, s.regs.Legal → step s = .next t → t.regs.Legal

/-- The register record at reset, whose values are those of R190, is legal; the clause on V = 0 is the inference of log
entry 15 (DEDUCED). -/
def Obligations.ResetRegistersAreLegal : Prop := State.reset.regs.Legal
end

