-- ==== Sys2Proof/Laws/Decode.lean ====
section
/-! SUPPORT. The fields of a command word (R60). -/

namespace Sys2Proof

section Fields
variable (op len : Nibble) (data : Byte)

/-- Each bit of a command word is the bit of the field it lies in (R60). -/
theorem commandWord_getLsbD (i : Nat) :
    (commandWord op len data).getLsbD i =
      if i < 8 then data.getLsbD i else if i - 8 < 4 then len.getLsbD (i - 8) else op.getLsbD (i - 8 - 4) := by
  change BitVec.getLsbD (w := 4 + 4 + 8) (op ++ len ++ data) i = _
  rw [BitVec.getLsbD_append, BitVec.getLsbD_append]

@[simp] theorem opField_commandWord : opField (commandWord op len data) = op := by
  apply BitVec.eq_of_getLsbD_eq
  intro i hi
  rw [opField, BitVec.getLsbD_extractLsb', commandWord_getLsbD, if_neg (by omega), if_neg (by omega)]
  simp [hi, show 12 + i - 8 - 4 = i by omega]

@[simp] theorem lenField_commandWord : lenField (commandWord op len data) = len := by
  apply BitVec.eq_of_getLsbD_eq
  intro i hi
  rw [lenField, BitVec.getLsbD_extractLsb', commandWord_getLsbD, if_neg (by omega), if_pos (by omega)]
  simp [hi]

@[simp] theorem dataField_commandWord : dataField (commandWord op len data) = data := by
  apply BitVec.eq_of_getLsbD_eq
  intro i hi
  rw [dataField, BitVec.getLsbD_extractLsb', commandWord_getLsbD, if_pos (by omega)]
  simp [hi]

end Fields

/-- A word is nothing but its three fields (R60). -/
theorem commandWord_fields (w : Word) : commandWord (opField w) (lenField w) (dataField w) = w := by
  apply BitVec.eq_of_getLsbD_eq
  intro i hi
  rw [commandWord_getLsbD]
  simp only [opField, lenField, dataField, BitVec.getLsbD_extractLsb']
  split
  · simp [*]
  · split
    · simp [*, show 8 + (i - 8) = i by omega]
    · simp [show i - 8 - 4 < 4 by omega, show 12 + (i - 8 - 4) = i by omega]

/-- What the decoder can answer, by the opcode (R63). -/
theorem decode_cases (w : Word) :
    (opField w = 0x0 ∧ decode w = .nop (lenField w) (dataField w)) ∨
    (opField w = 0x1 ∧ decode w = .repdec (lenField w) (dataField w)) ∨
    (opField w = 0x2 ∧ decode w = .hamenc (lenField w) (dataField w)) ∨
    (opField w = 0x3 ∧ decode w = .hamdec (lenField w) (dataField w)) ∨
    (opField w = 0x4 ∧ decode w = .crcinit (lenField w) (dataField w)) ∨
    (opField w = 0x5 ∧ decode w = .crcshift (lenField w) (dataField w)) ∨
    (opField w = 0x6 ∧ decode w = .crcfinal (lenField w) (dataField w)) ∨
    (opField w = 0x7 ∧ decode w = .crccheck (lenField w) (dataField w)) ∨
    (8 ≤ (opField w).toNat ∧ decode w = .undefined (opField w) (lenField w) (dataField w)) := by
  have high : ∀ op : Nibble, ¬ (op = 0 ∨ op = 1 ∨ op = 2 ∨ op = 3 ∨ op = 4 ∨ op = 5 ∨ op = 6 ∨ op = 7) →
      8 ≤ op.toNat := by decide
  unfold decode
  split
  case h_9 h0 h1 h2 h3 h4 h5 h6 h7 =>
    have := high (opField w) (by rintro (h | h | h | h | h | h | h | h) <;> exact absurd h (by assumption))
    simp [this]
  all_goals simp_all

end Sys2Proof
end

