-- ==== Sys2Proof/Laws/Flags.lean ====
section
/-! SUPPORT. The flags of each status computation (R27). -/

namespace Sys2Proof.Machine

section Pack
variable (v e z u : Bool)

@[simp] theorem flagV_packStatus : flagV (packStatus v e z u) = v := by
  cases v <;> cases e <;> cases z <;> cases u <;> rfl
@[simp] theorem flagE_packStatus : flagE (packStatus v e z u) = e := by
  cases v <;> cases e <;> cases z <;> cases u <;> rfl
@[simp] theorem flagZ_packStatus : flagZ (packStatus v e z u) = z := by
  cases v <;> cases e <;> cases z <;> cases u <;> rfl
@[simp] theorem flagU_packStatus : flagU (packStatus v e z u) = u := by
  cases v <;> cases e <;> cases z <;> cases u <;> rfl

end Pack

/-- STATUS holds nothing but its four flags (R27). -/
theorem packStatus_flags : ∀ st : Nibble, packStatus (flagV st) (flagE st) (flagZ st) (flagU st) = st := by
  decide

/-- Two values of STATUS with the same flags are equal. -/
theorem status_ext {a b : Nibble} (hv : flagV a = flagV b) (he : flagE a = flagE b) (hz : flagZ a = flagZ b)
    (hu : flagU a = flagU b) : a = b := by
  rw [← packStatus_flags a, ← packStatus_flags b, hv, he, hz, hu]

section Computations
variable (st : Nibble) (zero : Bool) (kind : RejectKind)

@[simp] theorem flagV_statusAccepted : flagV (statusAccepted st) = true := by simp [statusAccepted]
@[simp] theorem flagE_statusAccepted : flagE (statusAccepted st) = false := by simp [statusAccepted]
@[simp] theorem flagZ_statusAccepted : flagZ (statusAccepted st) = flagZ st := by simp [statusAccepted]
@[simp] theorem flagU_statusAccepted : flagU (statusAccepted st) = false := by simp [statusAccepted]

@[simp] theorem flagV_statusTested : flagV (statusTested zero) = true := by simp [statusTested]
@[simp] theorem flagE_statusTested : flagE (statusTested zero) = false := by simp [statusTested]
@[simp] theorem flagZ_statusTested : flagZ (statusTested zero) = zero := by simp [statusTested]
@[simp] theorem flagU_statusTested : flagU (statusTested zero) = false := by simp [statusTested]

@[simp] theorem flagV_statusInit : flagV (statusInit st) = flagV st := by simp [statusInit]
@[simp] theorem flagE_statusInit : flagE (statusInit st) = false := by simp [statusInit]
@[simp] theorem flagZ_statusInit : flagZ (statusInit st) = true := by simp [statusInit]
@[simp] theorem flagU_statusInit : flagU (statusInit st) = false := by simp [statusInit]

@[simp] theorem flagV_statusRejected : flagV (statusRejected kind st) = false := by simp [statusRejected]
@[simp] theorem flagE_statusRejected : flagE (statusRejected kind st) = true := by simp [statusRejected]
@[simp] theorem flagZ_statusRejected : flagZ (statusRejected kind st) = flagZ st := by simp [statusRejected]
@[simp] theorem flagU_statusRejected : flagU (statusRejected kind st) = decide (kind = .opcode) := by
  simp [statusRejected]

end Computations

end Sys2Proof.Machine
end

