-- ==== Sys2Proof/Laws/Operands.lean ====
section
/-! SUPPORT. Packing and unpacking of bit strings (R10). -/

namespace Sys2Proof.Machine

@[simp] theorem unpack_length (v : Byte) (L : Nat) : (unpack v L).length = L := by simp [unpack]

/-- s_i = v[L-1-i] (R10). -/
theorem unpack_getElem (v : Byte) (L i : Nat) (h : i < (unpack v L).length) :
    (unpack v L)[i] = v.getLsbD (L - 1 - i) := by simp [unpack]

/-- The string an accepted operand stands for depends on its low bits alone (R62). -/
theorem unpack_congr {v w : Byte} {L : Nat} (h : ∀ j < L, v.getLsbD j = w.getLsbD j) : unpack v L = unpack w L := by
  apply List.map_congr_left
  intro i hi
  have := List.mem_range.mp hi
  exact h _ (by omega)

/-- v[L-1-i] = s_i, and the bits above are 0 (R10). -/
theorem pack_getLsbD (s : Bits) (j : Nat) :
    (pack s).getLsbD j = (decide (j < 8) && decide (j < s.length) && s.getD (s.length - 1 - j) false) := by
  simp [pack, BitVec.getLsbD_setWidth, BitVec.getLsbD_ofBoolListBE, Bool.and_assoc]

/-- A packed string is below 2^L (R10, R23). -/
theorem pack_lt (s : Bits) : (pack s).toNat < 2 ^ s.length := by
  unfold pack
  rw [BitVec.toNat_setWidth]
  exact lt_of_le_of_lt (Nat.mod_le _ _) (BitVec.isLt _)

/-- Packing loses nothing of a string of at most 8 bits (R10). -/
theorem unpack_pack {s : Bits} (h : s.length ≤ 8) : unpack (pack s) s.length = s := by
  apply List.ext_getElem (by simp)
  intro i h1 h2
  rw [unpack_getElem, pack_getLsbD]
  have e : s.length - 1 - (s.length - 1 - i) = i := by omega
  have a : s.length - 1 - i < 8 := by omega
  have b : s.length - 1 - i < s.length := by omega
  simp [e, a, b, h2]

/-- Unpacking and packing again keeps the low L bits and clears the rest (R10). -/
theorem pack_unpack_getLsbD (v : Byte) (L j : Nat) :
    (pack (unpack v L)).getLsbD j = (decide (j < L) && v.getLsbD j) := by
  rw [pack_getLsbD, unpack_length]
  by_cases hL : j < L
  · have e : L - 1 - (L - 1 - j) = j := by omega
    have k : L - 1 - j < (unpack v L).length := by simp; omega
    rw [List.getD_eq_getElem _ _ k, unpack_getElem, e]
    by_cases h8 : j < 8
    · simp [h8]
    · simp [h8, hL, BitVec.getLsbD_of_ge v j (by omega)]
  · simp [hL]

end Sys2Proof.Machine
end

