-- ==== Sys2Proof/Laws/State.lean ====
section
/-! SUPPORT. What each update of the state writes and what it keeps: one lemma for each field, so that no proof unfolds a
record update. -/

namespace Sys2Proof.Machine

section Fields
variable (s : State) (v : Byte) (n st r : Nibble) (y : BitVec 3) (p : PortIn)

@[simp] theorem writeResult_rdata : (s.writeResult v n st).regs.rdata = v := rfl
@[simp] theorem writeResult_rlen : (s.writeResult v n st).regs.rlen = n := rfl
@[simp] theorem writeResult_syn : (s.writeResult v n st).regs.syn = s.regs.syn := rfl
@[simp] theorem writeResult_crcRem : (s.writeResult v n st).regs.crcRem = s.regs.crcRem := rfl
@[simp] theorem writeResult_status : (s.writeResult v n st).regs.status = st := rfl
@[simp] theorem writeResult_inputs : (s.writeResult v n st).inputs = s.inputs := rfl

@[simp] theorem writeSyn_rdata : (s.writeSyn y).regs.rdata = s.regs.rdata := rfl
@[simp] theorem writeSyn_rlen : (s.writeSyn y).regs.rlen = s.regs.rlen := rfl
@[simp] theorem writeSyn_syn : (s.writeSyn y).regs.syn = y := rfl
@[simp] theorem writeSyn_crcRem : (s.writeSyn y).regs.crcRem = s.regs.crcRem := rfl
@[simp] theorem writeSyn_status : (s.writeSyn y).regs.status = s.regs.status := rfl
@[simp] theorem writeSyn_inputs : (s.writeSyn y).inputs = s.inputs := rfl

@[simp] theorem writeCrcRem_rdata : (s.writeCrcRem r).regs.rdata = s.regs.rdata := rfl
@[simp] theorem writeCrcRem_rlen : (s.writeCrcRem r).regs.rlen = s.regs.rlen := rfl
@[simp] theorem writeCrcRem_syn : (s.writeCrcRem r).regs.syn = s.regs.syn := rfl
@[simp] theorem writeCrcRem_crcRem : (s.writeCrcRem r).regs.crcRem = r := rfl
@[simp] theorem writeCrcRem_status : (s.writeCrcRem r).regs.status = s.regs.status := rfl
@[simp] theorem writeCrcRem_inputs : (s.writeCrcRem r).inputs = s.inputs := rfl

@[simp] theorem writeStatus_rdata : (s.writeStatus st).regs.rdata = s.regs.rdata := rfl
@[simp] theorem writeStatus_rlen : (s.writeStatus st).regs.rlen = s.regs.rlen := rfl
@[simp] theorem writeStatus_syn : (s.writeStatus st).regs.syn = s.regs.syn := rfl
@[simp] theorem writeStatus_crcRem : (s.writeStatus st).regs.crcRem = s.regs.crcRem := rfl
@[simp] theorem writeStatus_status : (s.writeStatus st).regs.status = st := rfl
@[simp] theorem writeStatus_inputs : (s.writeStatus st).inputs = s.inputs := rfl

@[simp] theorem resetRegs_regs : s.resetRegs.regs = Regs.reset := rfl
@[simp] theorem resetRegs_inputs : s.resetRegs.inputs = s.inputs := rfl

@[simp] theorem present_regs : (s.present p).regs = s.regs := rfl
@[simp] theorem present_inputs : (s.present p).inputs = p :: s.inputs := rfl
@[simp] theorem present_sample : (s.present p).sample = p := rfl
@[simp] theorem present_afterSample : (s.present p).afterSample = s := rfl

@[simp] theorem afterSample_regs : s.afterSample.regs = s.regs := rfl
@[simp] theorem afterSample_inputs : s.afterSample.inputs = s.inputs.tail := rfl

end Fields

/-- When nothing is listed the host is idle. -/
theorem sample_of_nil {s : State} (h : s.inputs = []) : s.sample = PortIn.idle := by
  simp [State.sample, h]

/-- The first listed sample is what the ports hold in this step. -/
theorem sample_of_cons {s : State} {p : PortIn} {rest : List PortIn} (h : s.inputs = p :: rest) :
    s.sample = p := by
  simp [State.sample, h]

/-- Two states with the same five registers and the same pending samples are equal. -/
theorem State.ext_fields {s t : State} (hd : s.regs.rdata = t.regs.rdata) (hn : s.regs.rlen = t.regs.rlen)
    (hy : s.regs.syn = t.regs.syn) (hr : s.regs.crcRem = t.regs.crcRem) (hs : s.regs.status = t.regs.status)
    (hi : s.inputs = t.inputs) : s = t := by
  obtain ⟨⟨_, _, _, _, _⟩, _⟩ := s
  obtain ⟨⟨_, _, _, _, _⟩, _⟩ := t
  simp_all

end Sys2Proof.Machine
end

