-- ==== Sys2Proof/Laws/Ops.lean ====
section
/-! SUPPORT. What each shared operation does, said once (R100, R101, R131, R171). -/

namespace Sys2Proof.Machine

/-- Majority as a count (R100). -/
theorem maj_eq_count (a b c : Bool) : maj a b c = decide (2 ≤ a.toNat + b.toNat + c.toNat) := by
  cases a <;> cases b <;> cases c <;> rfl

/-- One bit for each complete triplet (R101). -/
@[simp] theorem decodeTriplets_length (s : Bits) : (decodeTriplets s).length = s.length / 3 := by
  induction s using decodeTriplets.induct with
  | case1 a b c rest ih => simp [decodeTriplets, ih]; omega
  | case2 s h =>
    match s, h with
    | [], _ => rfl
    | [_], _ => simp [decodeTriplets]
    | [_, _], _ => simp [decodeTriplets]
    | a :: b :: c :: rest, h => exact absurd rfl (h a b c rest)

/-- Output bit k is the majority of triplet k (R101). -/
theorem decodeTriplets_getElem (s : Bits) (k : Nat) (h : k < (decodeTriplets s).length) :
    (decodeTriplets s)[k] =
      maj (s.getD (3 * k) false) (s.getD (3 * k + 1) false) (s.getD (3 * k + 2) false) := by
  induction s using decodeTriplets.induct generalizing k with
  | case1 a b c rest ih =>
    cases k with
    | zero => simp [decodeTriplets]
    | succ k =>
      have hk : k < (decodeTriplets rest).length := by simpa [decodeTriplets] using h
      have e0 : 3 * (k + 1) = 3 * k + 1 + 1 + 1 := by ring
      simp [decodeTriplets, ih k hk, e0]
  | case2 s hs =>
    exfalso
    match s, hs with
    | [], _ => simp at h
    | [_], _ => simp at h
    | [_, _], _ => simp at h
    | a :: b :: c :: rest, hs => exact absurd rfl (hs a b c rest)

/-- Shifting in one string after another is shifting in their concatenation (R131). -/
theorem crcShift_append (r : Nibble) (a b : Bits) : crcShift r (a ++ b) = crcShift (crcShift r a) b := by
  induction a generalizing r with
  | nil => rfl
  | cons x a ih => exact ih (crcStep r x)

/-- The division step is linear over GF(2) (R131). -/
theorem crcStep_xor : ∀ (r q : Nibble) (a b : Bool), crcStep (r ^^^ q) (a ^^ b) = crcStep r a ^^^ crcStep q b := by
  decide

/-- The division step on a zero dividend bit loses no remainder (R131, R139). -/
theorem crcStep_false_ne_zero : ∀ r : Nibble, r ≠ 0 → crcStep r false ≠ 0 := by decide

section Rejection
variable (kind : RejectKind) (s : State)

@[simp] theorem reject_rdata : (reject kind s).regs.rdata = 0 := rfl
@[simp] theorem reject_rlen : (reject kind s).regs.rlen = 0 := rfl
@[simp] theorem reject_syn : (reject kind s).regs.syn = s.regs.syn := rfl
@[simp] theorem reject_crcRem : (reject kind s).regs.crcRem = s.regs.crcRem := rfl
@[simp] theorem reject_status : (reject kind s).regs.status = statusRejected kind s.regs.status := rfl
@[simp] theorem reject_inputs : (reject kind s).inputs = s.inputs := rfl

end Rejection

section Remainder
variable (r : Nibble) (s : State)

@[simp] theorem deliverRemainder_rdata : (deliverRemainder r s).regs.rdata = zext8 r := rfl
@[simp] theorem deliverRemainder_rlen : (deliverRemainder r s).regs.rlen = 4 := rfl
@[simp] theorem deliverRemainder_syn : (deliverRemainder r s).regs.syn = s.regs.syn := rfl
@[simp] theorem deliverRemainder_crcRem : (deliverRemainder r s).regs.crcRem = r := rfl
@[simp] theorem deliverRemainder_status :
    (deliverRemainder r s).regs.status = statusTested (decide (r = 0)) := rfl
@[simp] theorem deliverRemainder_inputs : (deliverRemainder r s).inputs = s.inputs := rfl

end Remainder

end Sys2Proof.Machine
end

