-- ==== Sys2Proof/Laws/Division.lean ====
section
/-! SUPPORT. The polynomials that the divider's statements speak of (R14, R131). -/

namespace Sys2Proof.Machine

open Polynomial

/-- The coefficient of an exclusive or is the sum (R11). -/
theorem bitCoeff_xor (a b : Bool) : bitCoeff (a ^^ b) = bitCoeff a + bitCoeff b := by
  revert a b; decide

theorem generatorPoly_natDegree : generatorPoly.natDegree = 4 := by
  unfold generatorPoly; compute_degree!

theorem generatorPoly_monic : generatorPoly.Monic := by
  unfold generatorPoly; monicity!

/-- A remainder by its four coefficients (R14). -/
theorem polyOfRemainder_eq (r : Nibble) : polyOfRemainder r =
    C (bitCoeff (r.getLsbD 0)) + C (bitCoeff (r.getLsbD 1)) * X + C (bitCoeff (r.getLsbD 2)) * X ^ 2 +
      C (bitCoeff (r.getLsbD 3)) * X ^ 3 := by
  simp [polyOfRemainder, Finset.sum_range_succ]

/-- A remainder has degree below 4 (R14). -/
theorem polyOfRemainder_degree_lt (r : Nibble) : (polyOfRemainder r).degree < generatorPoly.degree := by
  rw [degree_eq_natDegree generatorPoly_monic.ne_zero, generatorPoly_natDegree, polyOfRemainder_eq]
  have h : (C (bitCoeff (r.getLsbD 0)) + C (bitCoeff (r.getLsbD 1)) * X + C (bitCoeff (r.getLsbD 2)) * X ^ 2 +
      C (bitCoeff (r.getLsbD 3)) * X ^ 3).degree ≤ 3 := by compute_degree
  exact lt_of_le_of_lt h (by decide)

/-- The first bit of a string is its coefficient of highest degree (R14). -/
theorem polyOfBits_cons (b : Bool) (s : Bits) :
    polyOfBits (b :: s) = C (bitCoeff b) * X ^ s.length + polyOfBits s := by
  simp only [polyOfBits, List.length_cons]
  rw [Finset.sum_range_succ', add_comm]
  congr 1
  apply Finset.sum_congr rfl
  intro i hi
  simp only [List.getD_cons_succ]
  congr 2
  omega

/-- Concatenation of strings (R14, R138). -/
theorem polyOfBits_append (a b : Bits) : polyOfBits (a ++ b) = polyOfBits a * X ^ b.length + polyOfBits b := by
  induction a with
  | nil => simp [polyOfBits]
  | cons x a ih => rw [List.cons_append, polyOfBits_cons, polyOfBits_cons, ih, List.length_append, pow_add]; ring

/-- A division with a rest of lower degree gives the remainder. -/
theorem isRemainder_of_eq {r : Nibble} {p q : (ZMod 2)[X]} (h : polyOfRemainder r + generatorPoly * q = p) :
    IsRemainder r p :=
  (div_modByMonic_unique q _ generatorPoly_monic ⟨h, polyOfRemainder_degree_lt r⟩).2.symm

end Sys2Proof.Machine
end

