-- ==== Sys2Proof/Laws/Exec.lean ====
section
/-! SUPPORT. What each meaning answers, said once, so that no proof unfolds a meaning (R101 to R134, R170 to R172). -/

namespace Sys2Proof.Machine

/-- `reject` does what R171 says and nothing else. -/
theorem reject_rejects (kind : RejectKind) (s : State) : Rejects kind s (reject kind s) := by
  simp [Rejects, State.flagsAre]

section Accepted
variable {len : Nibble} {data : Byte} {s : State}

theorem execRepdec_of_le (h : len.toNat ≤ 8) : execRepdec len data s =
    .next (s.writeResult (pack (decodeTriplets (operand len data)))
      (BitVec.ofNat 4 (len.toNat / 3)) (statusAccepted s.regs.status)) := by
  simp [execRepdec, h, operand]

theorem execHamenc_of_eq (h : len.toNat = 4) : execHamenc len data s =
    .next (s.writeResult (pack (hamEncode (data.getLsbD 3) (data.getLsbD 2) (data.getLsbD 1) (data.getLsbD 0))) 7
      (statusAccepted s.regs.status)) := by
  simp only [execHamenc, if_pos h]

theorem execHamdec_of_eq (h : len.toNat = 7) : execHamdec len data s =
    .next ((s.writeResult (pack (hamDecode data)) 4
      (statusTested (decide (syndrome data = 0)))).writeSyn (syndrome data)) := by
  simp only [execHamdec, if_pos h]

theorem execCrcshift_of_le (h : len.toNat ≤ 8) : execCrcshift len data s =
    .next (deliverRemainder (crcShift s.regs.crcRem (operand len data)) s) := by
  simp only [execCrcshift, if_pos h]

end Accepted

section Rejected
variable {len : Nibble} {data : Byte} {s : State}

theorem execRepdec_of_lt (h : 8 < len.toNat) : execRepdec len data s = .next (reject .length s) := by
  simp only [execRepdec, if_neg (Nat.not_le.mpr h)]

theorem execHamenc_of_ne (h : len.toNat ≠ 4) : execHamenc len data s = .next (reject .length s) := by
  simp only [execHamenc, if_neg h]

theorem execHamdec_of_ne (h : len.toNat ≠ 7) : execHamdec len data s = .next (reject .length s) := by
  simp only [execHamdec, if_neg h]

theorem execCrcshift_of_lt (h : 8 < len.toNat) : execCrcshift len data s = .next (reject .length s) := by
  simp only [execCrcshift, if_neg (Nat.not_le.mpr h)]

end Rejected

/-- Every write of a result of length RLEN with V set, E and U clear leaves a legal register record. -/
theorem writeResult_legal {s : State} {v : Byte} {n st : Nibble} (hn : n = 0 ∨ n = 1 ∨ n = 2 ∨ n = 4 ∨ n = 7)
    (hd : v.toNat < 2 ^ n.toNat) (hv : flagV st = true) (he : flagE st = false) (hu : flagU st = false) :
    (s.writeResult v n st).regs.Legal := by
  refine ⟨hn, hd, ?_, ?_⟩
  · simp [Regs.statusLegal, he, hu]
  · simp [Regs.absentLegal, hv]

/-- A rejection leaves a legal register record. -/
theorem reject_legal (kind : RejectKind) (s : State) : (reject kind s).regs.Legal := by
  simp [Regs.Legal, Regs.rlenLegal, Regs.rdataLegal, Regs.statusLegal, Regs.absentLegal]

end Sys2Proof.Machine
end

