-- ==== Sys2Proof/Laws/Step.lean ====
section
/-! SUPPORT. What a step can do, said once: each kind of step by what its sample holds (R21, R190). -/

namespace Sys2Proof.Machine

/-- If a step answers a next state, it was a reset step, a command step or an idle step (R21). -/
theorem step_cases {s t : State} (h : step s = .next t) :
    (s.sample.rst = true ∧ t = s.afterSample.resetRegs) ∨
    (s.sample.rst = false ∧ s.sample.cmdValid = true ∧ exec (decode s.sample.cmd) s.afterSample = .next t) ∨
    (s.sample.rst = false ∧ s.sample.cmdValid = false ∧ t = s.afterSample) := by
  unfold step at h
  split at h
  · cases h; exact .inl ⟨‹_›, rfl⟩
  · split at h
    · exact .inr (.inl ⟨by simpa using ‹¬ s.sample.rst = true›, ‹_›, h⟩)
    · cases h
      exact .inr (.inr ⟨by simpa using ‹¬ s.sample.rst = true›, by simpa using ‹¬ s.sample.cmdValid = true›, rfl⟩)

/-- The instruction the host asks about is the one the next step samples. -/
theorem withFetchWord_sample (s : State) (nbits w : Nat) :
    (s.withFetchWord nbits w).sample = .command (tableWord nbits w) := rfl

end Sys2Proof.Machine
end

