-- ==== Sys2Proof/Laws/Framing.lean ====
section
/-! SUPPORT. The host's functions over the block: issuing commands, and cutting strings into pieces (R69, R151). -/

namespace Sys2Proof.Machine

/-- Issuing a command is executing it on the state as it is. -/
theorem issue_eq_exec (w : Word) (s : State) : issue w s = exec (decode w) s := by
  simp [issue, step, PortIn.command]

/-- Issuing one list of commands and then another. -/
theorem issueAll_append {a b : List Word} {s t : State} (h : issueAll a s = .next t) :
    issueAll (a ++ b) s = issueAll b t := by
  induction a generalizing s with
  | nil => cases h; rfl
  | cons w a ih =>
    simp only [issueAll, List.cons_append] at h ⊢
    split at h
    · exact ih h
    · cases h
    · cases h

/-- No piece is longer than asked. -/
theorem pieces_length_le {n k : Nat} {s c : Bits} (h : c ∈ pieces n k s) : c.length ≤ n := by
  simp only [pieces, List.mem_map] at h
  obtain ⟨j, _, rfl⟩ := h
  simp

/-- One piece more is the next one at the end. -/
theorem pieces_succ (n k : Nat) (s : Bits) : pieces n (k + 1) s = pieces n k s ++ [(s.drop (n * k)).take n] := by
  simp [pieces, List.range_succ]

/-- The pieces, joined, are the string (R69). -/
theorem pieces_flatten (n k : Nat) (s : Bits) : (pieces n k s).flatten = s.take (n * k) := by
  induction k with
  | zero => simp [pieces]
  | succ k ih => rw [pieces_succ, List.flatten_append, ih, Nat.mul_succ, List.take_add]; simp

/-- LEN of an operand of at most 8 bits is its length (R68). -/
theorem operand_length_toNat {s : Bits} (h : s.length ≤ 8) : (BitVec.ofNat 4 s.length).toNat = s.length := by
  rw [BitVec.toNat_ofNat]; omega

/-- The operand a canonical word carries is the string it was made from (R62, R68). -/
theorem operand_pack {s : Bits} (h : s.length ≤ 8) : operand (BitVec.ofNat 4 s.length) (pack s) = s := by
  rw [operand, operand_length_toNat h, unpack_pack h]

/-- Characters written for a bit string read back as it (R68). -/
theorem parseBits_showBits (s : Bits) : parseBits (showBits s) = some s := by
  induction s with
  | nil => rfl
  | cons b s ih =>
    have e : showBits (b :: s) = (if b then '1' else '0') :: showBits s := rfl
    rw [e, parseBits, ih]
    cases b <;> simp

end Sys2Proof.Machine
end

