-- ==== Sys2Proof/Laws/PerInstr.lean ====
section
/-! SUPPORT. Statements over all commands, made for each constructor of `Instr`. -/

namespace Sys2Proof.Laws

/-- The word of a well-formed command holds its opcode, its LEN and its DATA in the fields of R60, and the decoder
looks at OP alone (R63). -/
def EncodeFields.Statement (i : Instr) : Prop :=
  i.wellFormed = true →
    opField (encode i) = i.opcode ∧ lenField (encode i) = i.len ∧ dataField (encode i) = i.data

section
variable (op len : Nibble) (data : Byte)

theorem EncodeFields.nop : EncodeFields.Statement (.nop len data) := by
  simp [EncodeFields.Statement, encode]
theorem EncodeFields.repdec : EncodeFields.Statement (.repdec len data) := by
  simp [EncodeFields.Statement, encode]
theorem EncodeFields.hamenc : EncodeFields.Statement (.hamenc len data) := by
  simp [EncodeFields.Statement, encode]
theorem EncodeFields.hamdec : EncodeFields.Statement (.hamdec len data) := by
  simp [EncodeFields.Statement, encode]
theorem EncodeFields.crcinit : EncodeFields.Statement (.crcinit len data) := by
  simp [EncodeFields.Statement, encode]
theorem EncodeFields.crcshift : EncodeFields.Statement (.crcshift len data) := by
  simp [EncodeFields.Statement, encode]
theorem EncodeFields.crcfinal : EncodeFields.Statement (.crcfinal len data) := by
  simp [EncodeFields.Statement, encode]
theorem EncodeFields.crccheck : EncodeFields.Statement (.crccheck len data) := by
  simp [EncodeFields.Statement, encode]
theorem EncodeFields.undefined : EncodeFields.Statement (.undefined op len data) := by
  simp [EncodeFields.Statement, encode]

end

end Sys2Proof.Laws
end

