-- ==== Sys2Proof/Tests/Slice0.lean ====
section
/-! SUPPORT. Tests of the model. The expected values are those of `spec/95_test_vectors.md`, of the tables and examples
of the rules, or worked by hand from a rule; each test names its source. The witnesses at the end show, for every
statement with hypotheses, a state and operands that meet them. -/

namespace Sys2Proof.Tests

open Sys2Proof.Machine

/-- A state with this CRC_REM and STATUS, a result of an earlier command and SYN = 5. -/
def stateWith (crcRem status : Nibble) : State :=
  { regs := { rdata := 0x33, rlen := 7, syn := 5, crcRem := crcRem, status := status }, inputs := [] }

/-- What a predicate says of the registers after a command; false if the command has no next state. -/
def after (i : Instr) (s : State) (f : Regs → Bool) : Bool :=
  match exec i s with
  | .next t => f t.regs
  | .fault _ => false
  | .refused _ => false

/-- RDATA, RLEN, SYN, CRC_REM and STATUS are these. -/
def regsAre (rdata : Byte) (rlen : Nibble) (syn : BitVec 3) (crcRem status : Nibble) (r : Regs) : Bool :=
  r == { rdata := rdata, rlen := rlen, syn := syn, crcRem := crcRem, status := status }

/-! ### Well-formedness: each opcode of a command is refused in `undefined` (R63, R65) -/

theorem test_undefined_with_opcode_7_is_ill_formed : (Instr.undefined 7 0 0).wellFormed = false := by decide
theorem test_undefined_with_opcode_0_is_ill_formed : (Instr.undefined 0 15 0xFF).wellFormed = false := by decide
theorem test_undefined_with_opcode_8_is_well_formed : (Instr.undefined 8 0 0).wellFormed = true := by decide

/-! ### Decoding: words written bit by bit from R60 and R63, OOOO LLLL DDDD DDDD -/

theorem test_decode_nop : decode 0b0000_1111_11111111 = .nop 15 0xFF := by decide
theorem test_decode_repdec : decode 0b0001_0110_00111000 = .repdec 6 0x38 := by decide
theorem test_decode_hamenc : decode 0b0010_0100_00001011 = .hamenc 4 0x0B := by decide
theorem test_decode_hamdec : decode 0b0011_0111_00110011 = .hamdec 7 0x33 := by decide
theorem test_decode_crcinit : decode 0b0100_0000_00000000 = .crcinit 0 0 := by decide
theorem test_decode_crcshift : decode 0b0101_0101_00010110 = .crcshift 5 0x16 := by decide
theorem test_decode_crcfinal : decode 0b0110_0000_00000000 = .crcfinal 0 0 := by decide
theorem test_decode_crccheck : decode 0b0111_0000_00000000 = .crccheck 0 0 := by decide
theorem test_decode_undefined_low : decode 0b1000_0001_00100011 = .undefined 8 1 0x23 := by decide
theorem test_decode_undefined_high : decode 0b1111_0001_00100011 = .undefined 15 1 0x23 := by decide
theorem test_encode_hamdec : encode (.hamdec 7 0x33) = 0x3733 := by decide
theorem test_decodeTableWord : decodeTableWord 16 0x5516 = some (.crcshift 5 0x16) := by decide
theorem test_decodeTableWord_too_long : decodeTableWord 24 0x5516 = none := by decide

/-! ### One command each -/

/-- 95_test_vectors.md 2.5: NOP leaves the result of HAMENC "1011" readable. -/
theorem test_nop : exec (.nop 15 0xFF) (stateWith 9 0b0101) = .next (stateWith 9 0b0101) := by rfl
/-- 2.1: "01110010" gives "10", the last two bits dropped; Z is kept. -/
theorem test_repdec_two_triplets : after (.repdec 8 0x72) (stateWith 9 0b1110) (regsAre 0x02 2 5 9 0b0101) := by decide
/-- 2.1: L = 3 with the ignored bits set is "111". -/
theorem test_repdec_ignored_bits : after (.repdec 3 0xFF) (stateWith 9 0) (regsAre 0x01 1 5 9 0b0001) := by decide
/-- R112 row 0xB, 2.2: DATA[7:4] ignored. -/
theorem test_hamenc : after (.hamenc 4 0xFB) (stateWith 9 0b0100) (regsAre 0x33 7 5 9 0b0101) := by decide
/-- 2.2: a codeword's length is rejected. -/
theorem test_hamenc_rejected : after (.hamenc 7 0x0B) (stateWith 9 0b0101) (regsAre 0x00 0 5 9 0b0110) := by decide
/-- 2.3: position 3 flipped. -/
theorem test_hamdec_corrects : after (.hamdec 7 0x23) (stateWith 9 0b0100) (regsAre 0x0B 4 3 9 0b0001) := by decide
/-- 2.3: DATA[7] ignored, a codeword, Z = 1. -/
theorem test_hamdec_codeword : after (.hamdec 7 0xB3) (stateWith 9 0) (regsAre 0x0B 4 0 9 0b0101) := by decide
/-- R130: CRC_REM = 1011, then CRCINIT; V and the result are kept. -/
theorem test_crcinit : after (.crcinit 0 0) (stateWith 0b1011 0b0001) (regsAre 0x33 7 5 0 0b0101) := by decide
/-- R132: "10110" from CRC_REM = 0. -/
theorem test_crcshift : after (.crcshift 5 0x16) (stateWith 0 0) (regsAre 0x05 4 5 0b0101 0b0001) := by decide
/-- 95_test_vectors.md P4 step 4: 0x5C00 in mid-stream is rejected and CRC_REM and Z are kept. -/
theorem test_crcshift_rejected : after (.crcshift 12 0) (stateWith 0b0010 0b0001) (regsAre 0 0 5 0b0010 0b0010) := by decide
/-- R133: from CRC_REM = 0101. -/
theorem test_crcfinal : after (.crcfinal 0 0) (stateWith 0b0101 0b0001) (regsAre 0x0F 4 5 0b1111 0b0001) := by decide
/-- R47: from 0001, CRCFINAL gives 0011. -/
theorem test_crcfinal_of_one : after (.crcfinal 3 7) (stateWith 1 0b1110) (regsAre 0x03 4 5 0b0011 0b0001) := by decide
/-- R134: the verdict of a zero remainder. -/
theorem test_crccheck_true : after (.crccheck 0 0) (stateWith 0 0b0001) (regsAre 0x01 1 5 0 0b0101) := by decide
/-- P2 step 11: the verdict of CRC_REM = 0100. -/
theorem test_crccheck_false : after (.crccheck 0 0) (stateWith 0b0100 0b0001) (regsAre 0x00 1 5 0b0100 0b0001) := by decide
/-- 2.5: 0xF123 is rejected with U = 1, Z kept. -/
theorem test_undefined : after (.undefined 15 1 0x23) (stateWith 9 0b0101) (regsAre 0 0 5 9 0b1110) := by decide

/-! ### Steps -/

/-- 2.6: a reset step with a command presented executes no command. -/
theorem test_reset_step : step ((stateWith 0b1101 0b0001).present { rst := true, cmdValid := true, cmd := 0x5101 }) =
    .next State.reset := by rfl
/-- R21: an idle step. -/
theorem test_idle_step : step ((stateWith 3 1).present { rst := false, cmdValid := false, cmd := 0x4000 }) =
    .next (stateWith 3 1) := by rfl
/-- The instruction the host places is the one the next step runs: HAMENC "1011" (S1, corrected by C1). -/
theorem test_withFetchWord : step (State.reset.withFetchWord 16 0x240B) =
    .next { regs := { rdata := 0x33, rlen := 7, syn := 0, crcRem := 0, status := 0b0001 }, inputs := [] } := by rfl

/-! ### Assembler and reference division -/

/-- R68's examples. -/
theorem test_assemble_hamenc_101 : assemble (.hamenc ['1', '0', '1']) = some [0x2305] := by decide
theorem test_assemble_bad_character : assemble (.crcshift ['1', '2']) = none := by decide
theorem test_disassemble_canonical : disassemble 0x5516 = .crcshift ['1', '0', '1', '1', '0'] := by decide
theorem test_disassemble_not_canonical : disassemble 0x24FB = .cmd 0x24FB := by decide
/-- R68: the text of a `.cmd` line with an ignored bit set, and of HAMENC "1". -/
theorem test_assembleText_cmd : assembleText ['.', 'c', 'm', 'd', ' ', '0', 'x', '2', '4', 'F', 'B'] = some [0x24FB] := by
  decide
theorem test_assembleText_hamenc :
    assembleText ['H', 'A', 'M', 'E', 'N', 'C', ' ', quoteChar, '1', quoteChar] = some [0x2101] := by decide
/-- R69: a message of 10 bits is two chunks. -/
theorem test_crcshifts : crcshiftsWords [true, true, false, true, false, true, true, false, true, true] =
    [0x58D6, 0x5203] := by decide
/-- 95_test_vectors.md 2.4: the checksum of "10110" is 1111, by the source's window procedure. -/
theorem test_windowDivide : windowDivide [true, false, true, true, false, false, false, false, false] =
    [true, true, true, true] := by decide
/-- R156: position 3 of the codeword of C1. -/
theorem test_flipBit : flipBit [false, true, true, false, false, true, true] (some 3) =
    [false, true, false, false, false, true, true] := by decide
theorem test_flipBit_outside : flipBit [true, false] (some 0) = [true, false] ∧
    flipBit [true, false] (some 3) = [true, false] ∧ flipBit [true, false] none = [true, false] := by decide

/-! ### Witnesses of the statements' hypotheses, at the boundaries of each clause -/

theorem witness_DecodeOfEncodeIsInstr :
    (Instr.undefined 8 0 0).wellFormed = true ∧ (Instr.hamenc 15 0xFF).wellFormed = true := by decide
theorem witness_AcceptedWordsAreExactlyThese :
    accepted 0x1800 = true ∧ accepted 0x1900 = false ∧ accepted 0x2400 = true ∧ accepted 0x2500 = false ∧
    accepted 0x3700 = true ∧ accepted 0x3800 = false ∧ accepted 0x7FFF = true ∧ accepted 0x8000 = false := by decide
theorem witness_IgnoredFieldsChangeNothing :
    (∀ j < (4#4).toNat, (0x0B#8).getLsbD j = (0xFB#8).getLsbD j) ∧
    (∀ j < (0#4).toNat, (0x00#8).getLsbD j = (0xFF#8).getLsbD j) := by decide
theorem witness_AssemblerRoundTrip : ([] : Bits).length ≤ 8 ∧ (List.replicate 8 true).length ≤ 8 := by decide
theorem witness_UndefinedOpcodesAreRejected : 8 ≤ (8#4).toNat ∧ 8 ≤ (15#4).toNat := by decide
theorem witness_RepdecDecodesTriplets :
    ((8#4).toNat ≤ 8 ∧ 1 < (8#4).toNat / 3 ∧ (8#4).toNat / 3 ≤ 2) ∧ 8 < (9#4).toNat := by decide
theorem witness_RepdecDropsPartialTriplet : (List.replicate 8 true).length ≤ 8 ∧ ([true] : Bits).length ≤ 8 := by decide
theorem witness_RepdecRoundTrip : [true].length = 1 ∧ [true, false].length = 2 := by decide
theorem witness_RepetitionDecodeOfWholeString :
    ([] : Bits) = [] ∧ 0 < [true, true, false].length / 3 := by decide
theorem witness_HamencComputesCodeword : (4#4).toNat = 4 ∧ (3#4).toNat ≠ 4 ∧ (5#4).toNat ≠ 4 := by decide
theorem witness_HamencIsLinearWithDistanceThree : (0x00#8).setWidth 4 ≠ (0x01#8).setWidth 4 := by decide
theorem witness_HamdecCorrectsNamedPosition : (7#4).toNat = 7 ∧ (6#4).toNat ≠ 7 ∧ (8#4).toNat ≠ 7 := by decide
theorem witness_HamdecCorrectsSingleErrors : (1 ≤ 1 ∧ 1 ≤ 7) ∧ (1 ≤ 7 ∧ 7 ≤ 7) := by decide
theorem witness_HamdecMiscorrectsMultipleErrors :
    (1 ≤ 1 ∧ 1 < 2 ∧ 2 ≤ 7) ∧ (1 ≤ 6 ∧ 6 < 7 ∧ 7 ≤ 7) ∧ (1 ≤ 1 ∧ 1 < 2 ∧ 2 < 3 ∧ 3 ≤ 7) ∧
    (1 ≤ 5 ∧ 5 < 6 ∧ 6 < 7 ∧ 7 ≤ 7) := by decide
theorem witness_HammingMessageRoundTrip : (List.replicate 6 true).length % 7 ≠ 0 := by decide
theorem witness_CrcshiftDividesOperand : (8#4).toNat ≤ 8 ∧ (0#4).toNat ≤ 8 ∧ 8 < (9#4).toNat := by decide
theorem witness_WindowDivisionEqualsDivider : 5 ≤ (List.replicate 5 true).length := by decide
theorem witness_CrcStreamIsRemainder :
    ∀ i ∈ [Instr.crcshift 8 0x41, .repdec 6 0x38, .crcshift 12 0, .hamdec 7 0x23, .undefined 8 0 0, .crccheck 0 0],
      i.wellFormed = true ∧ breaksStream i = false := by decide
theorem witness_CrcgenLeavesChecksum : ([true] : Bits) ≠ [] := by decide
theorem witness_CrcverifyAcceptsCodewords : 5 ≤ (List.replicate 5 true).length := by decide
theorem witness_CrcverifyDetectsSingleFlips : ∃ c t, crcEncode [true] State.reset = .next (c, t) ∧
    (1 ≤ 1 ∧ 1 ≤ c.length) ∧ (1 ≤ 5 ∧ 5 ≤ c.length) := by
  refine ⟨[true, false, false, true, true], _, rfl, ?_⟩
  decide
theorem witness_CrcShortInputs : ([] : Bits).length ≤ 4 ∧ (List.replicate 4 false).length ≤ 4 := by decide
theorem witness_FlagsFollowTheirWriters :
    ((Instr.nop 0 0).opcode = 0x0 ∧ (Instr.nop 0 0).wellFormed = true) ∧
    ((Instr.crcshift 9 0).opcode ≠ 0x0 ∧ (Instr.crcshift 9 0).wellFormed = true) := by decide
theorem witness_RegistersChangeOnlyByTheirWriters :
    (∃ t, exec (.hamdec 7 0x23) State.reset = .next t ∧ t.regs.syn ≠ State.reset.regs.syn ∧
      t.regs.rdata ≠ State.reset.regs.rdata) ∧
    (∃ t, exec (.crcfinal 0 0) (stateWith 1 0) = .next t ∧ t.regs.crcRem ≠ (stateWith 1 0).regs.crcRem) := by
  refine ⟨⟨_, rfl, ?_⟩, _, rfl, ?_⟩ <;> decide
theorem witness_CombinationalUnitsKeepNothing :
    ((Instr.repdec 9 0).opcode = 0x1 ∧ (Instr.repdec 9 0).wellFormed = true) ∧
    ((Instr.hamdec 7 0).opcode = 0x3 ∧ (Instr.hamdec 7 0).wellFormed = true ∧ (Instr.hamdec 7 0).rejection = none) := by
  decide
theorem witness_IdempotentCommands :
    ((Instr.crcinit 0 0).opcode ≠ 0x5 ∧ (Instr.crcinit 0 0).opcode ≠ 0x6 ∧ (Instr.crcinit 0 0).wellFormed = true) ∧
    (stateWith 1 0).regs.crcRem = 0b0001 ∧ (1 ≤ (1#4).toNat ∧ (1#4).toNat ≤ 8) ∧
    (1 ≤ (8#4).toNat ∧ (8#4).toNat ≤ 8) := by decide
theorem witness_UnlistedStepIsIdle : (stateWith 1 0).inputs = [] := by decide
theorem witness_StepRunsDecodedCommand : (Instr.hamenc 4 0x0B).wellFormed = true ∧
    ((stateWith 1 0).present { rst := false, cmdValid := true, cmd := encode (.hamenc 4 0x0B) }).inputs =
      { rst := false, cmdValid := true, cmd := 0x240B } :: [] := by decide
theorem witness_LegalRegistersAreKept : (stateWith 1 0b0001).regs.Legal ∧
    ∃ t, step ((stateWith 1 0b0001).present (.command 0x6000)) = .next t := by
  refine ⟨by decide, _, rfl⟩

end Sys2Proof.Tests
end

