-- ==== Sys2Proof/Proofs/Scope.lean ====
section
/-! PROOFS. Every command and every step completes, so a run is observed after each of its steps (R18, R21, R202). -/

namespace Sys2Proof.Machine

/-- Every command, accepted or rejected, completes and takes no sample of a later step (R21, R171). -/
theorem exec_completes (i : Instr) (s : State) : ∃ t, exec i s = .next t ∧ t.inputs = s.inputs := by
  cases i with
  | nop len data => exact ⟨s, rfl, rfl⟩
  | repdec len data =>
    rcases Nat.lt_or_ge 8 len.toNat with h | h
    · exact ⟨_, execRepdec_of_lt h, reject_inputs ..⟩
    · exact ⟨_, execRepdec_of_le h, writeResult_inputs ..⟩
  | hamenc len data =>
    by_cases h : len.toNat = 4
    · exact ⟨_, execHamenc_of_eq h, writeResult_inputs ..⟩
    · exact ⟨_, execHamenc_of_ne h, reject_inputs ..⟩
  | hamdec len data =>
    by_cases h : len.toNat = 7
    · exact ⟨_, execHamdec_of_eq h, by simp⟩
    · exact ⟨_, execHamdec_of_ne h, reject_inputs ..⟩
  | crcinit len data => exact ⟨_, rfl, by simp⟩
  | crcshift len data =>
    rcases Nat.lt_or_ge 8 len.toNat with h | h
    · exact ⟨_, execCrcshift_of_lt h, reject_inputs ..⟩
    · exact ⟨_, execCrcshift_of_le h, deliverRemainder_inputs ..⟩
  | crcfinal len data => exact ⟨_, rfl, deliverRemainder_inputs ..⟩
  | crccheck len data => exact ⟨_, rfl, writeResult_inputs ..⟩
  | undefined op len data => exact ⟨_, rfl, reject_inputs ..⟩

/-- A reset, command or idle step, from any state, completes and takes the one sample it reads (R21, R202). -/
theorem step_completes (s : State) : ∃ t, step s = .next t ∧ t.inputs = s.inputs.tail := by
  unfold step
  split
  · exact ⟨_, rfl, resetRegs_inputs _⟩
  · split
    · exact exec_completes (decode s.sample.cmd) s.afterSample
    · exact ⟨_, rfl, afterSample_inputs s⟩

/-- What is observed of a run whose first step answers `t`: the ports of `t`, then the run from `t`. -/
theorem observe_succ {s t : State} (h : step s = .next t) (n : Nat) :
    observe (n + 1) s = t.outputs :: observe n t := by
  simp only [observe, h]

/-- A run is observed once for each of its steps: no step is left unobserved, since each completes. -/
@[simp] theorem observe_length (n : Nat) (s : State) : (observe n s).length = n := by
  induction n generalizing s with
  | zero => rfl
  | succ n ih =>
    obtain ⟨t, ht, -⟩ := step_completes s
    rw [observe_succ ht, List.length_cons, ih]

/-- Settles O43: the length by induction on the number of steps, the first observation by the step that completes. -/
theorem runsNeverStop : Obligations.RunsNeverStop := by
  intro n s
  obtain ⟨t, ht, -⟩ := step_completes s
  exact ⟨observe_length n s, t, ht, observe_succ ht n⟩

end Sys2Proof.Machine
end

/-! PROOFS. What a command can do to the registers, as one relation with a case for each accepted command and one for
every rejection; from it the flags' writers, the frame of every register and the invariant of the register record. -/

namespace Sys2Proof

/-- A word whose opcode no command has decodes to the undefined row (R63, R65). -/
theorem decode_of_undefined_opcode {w : Word} (hw : 8 ≤ (opField w).toNat) :
    decode w = .undefined (opField w) (lenField w) (dataField w) := by
  obtain ⟨h, -⟩ | ⟨h, -⟩ | ⟨h, -⟩ | ⟨h, -⟩ | ⟨h, -⟩ | ⟨h, -⟩ | ⟨h, -⟩ | ⟨h, -⟩ | ⟨-, h⟩ := decode_cases w
  pick_goal 9
  · exact h
  all_goals simp [h] at hw

/-- The decoder reads back the command a word was made from (R60, R63). -/
theorem decode_encode {i : Instr} (hi : i.wellFormed = true) : decode (encode i) = i := by
  cases i with
  | undefined op len data =>
    have hop : 8 ≤ op.toNat := by simpa [Instr.wellFormed, isUndefinedOpcode] using hi
    obtain ⟨hopField, hlenField, hdataField⟩ := Laws.EncodeFields.undefined op len data hi
    rw [decode_of_undefined_opcode (by rwa [hopField]), hopField, hlenField, hdataField]
    rfl
  | _ => simp [decode, encode, Instr.opcode, Instr.len, Instr.data]

/-- NOP is the only well-formed command of opcode 0 (R63). -/
theorem eq_nop_of_opcode {i : Instr} (h0 : i.opcode = 0x0) (hi : i.wellFormed = true) :
    ∃ len data, i = .nop len data := by
  cases i with
  | nop len data => exact ⟨len, data, rfl⟩
  | undefined op len data =>
    cases (show op = 0x0 from h0)
    simp [Instr.wellFormed, isUndefinedOpcode] at hi
  | _ => simp [Instr.opcode] at h0

end Sys2Proof

namespace Sys2Proof.Machine

/-! ### What a command can do -/

/-- `Executes i s t`: from `s` the command `i` answers `t`. A rejected command does `reject` and nothing else (R171);
each accepted one has the writes of its own rule. -/
inductive Executes : Instr → State → State → Prop
  | rejected {i kind s} (h : i.rejection = some kind) : Executes i s (reject kind s)
  | nop {len data s} : Executes (.nop len data) s s
  | repdec {len data s} (h : len.toNat ≤ 8) : Executes (.repdec len data) s
      (s.writeResult (pack (decodeTriplets (operand len data))) (BitVec.ofNat 4 (len.toNat / 3))
        (statusAccepted s.regs.status))
  | hamenc {len data s} (h : len.toNat = 4) : Executes (.hamenc len data) s
      (s.writeResult (pack (hamEncode (data.getLsbD 3) (data.getLsbD 2) (data.getLsbD 1) (data.getLsbD 0))) 7
        (statusAccepted s.regs.status))
  | hamdec {len data s} (h : len.toNat = 7) : Executes (.hamdec len data) s
      ((s.writeResult (pack (hamDecode data)) 4
        (statusTested (decide (syndrome data = 0)))).writeSyn (syndrome data))
  | crcinit {len data s} : Executes (.crcinit len data) s
      ((s.writeCrcRem 0).writeStatus (statusInit s.regs.status))
  | crcshift {len data s} (h : len.toNat ≤ 8) : Executes (.crcshift len data) s
      (deliverRemainder (crcShift s.regs.crcRem (operand len data)) s)
  | crcfinal {len data s} : Executes (.crcfinal len data) s
      (deliverRemainder (crcShift s.regs.crcRem [false, false, false, false]) s)
  | crccheck {len data s} : Executes (.crccheck len data) s
      (s.writeResult (pack [decide (s.regs.crcRem = 0)]) 1 (statusTested (decide (s.regs.crcRem = 0))))

/-- Whatever the command and the kind, a rejection is `reject` and nothing else (R64, R171). -/
theorem exec_of_rejected {i : Instr} {kind : RejectKind} (h : i.rejection = some kind) (s : State) :
    exec i s = .next (reject kind s) := by
  cases i with
  | repdec len data =>
    obtain ⟨hlen, rfl⟩ : 8 < len.toNat ∧ .length = kind := by simpa [Instr.rejection] using h
    exact execRepdec_of_lt hlen
  | hamenc len data =>
    obtain ⟨hlen, rfl⟩ : len.toNat ≠ 4 ∧ .length = kind := by simpa [Instr.rejection] using h
    exact execHamenc_of_ne hlen
  | hamdec len data =>
    obtain ⟨hlen, rfl⟩ : len.toNat ≠ 7 ∧ .length = kind := by simpa [Instr.rejection] using h
    exact execHamdec_of_ne hlen
  | crcshift len data =>
    obtain ⟨hlen, rfl⟩ : 8 < len.toNat ∧ .length = kind := by simpa [Instr.rejection] using h
    exact execCrcshift_of_lt hlen
  | undefined op len data => cases h; rfl
  | _ => simp [Instr.rejection] at h

section Executes
variable {i : Instr} {s t : State} {len : Nibble} {data : Byte}

/-- The relation says what `exec` answers. -/
theorem Executes.exec_eq (h : Executes i s t) : exec i s = .next t := by
  cases h with
  | rejected h => exact exec_of_rejected h s
  | repdec h => exact execRepdec_of_le h
  | hamenc h => exact execHamenc_of_eq h
  | hamdec h => exact execHamdec_of_eq h
  | crcshift h => exact execCrcshift_of_le h
  | _ => rfl

/-- Every command is rejected or has its accepted meaning, from every state. -/
theorem executes_total (i : Instr) (s : State) : ∃ t, Executes i s t := by
  cases hr : i.rejection with
  | some kind => exact ⟨_, .rejected hr⟩
  | none =>
    cases i with
    | nop len data => exact ⟨_, .nop⟩
    | repdec len data => exact ⟨_, .repdec (by simpa [Instr.rejection] using hr)⟩
    | hamenc len data => exact ⟨_, .hamenc (by simpa [Instr.rejection] using hr)⟩
    | hamdec len data => exact ⟨_, .hamdec (by simpa [Instr.rejection] using hr)⟩
    | crcinit len data => exact ⟨_, .crcinit⟩
    | crcshift len data => exact ⟨_, .crcshift (by simpa [Instr.rejection] using hr)⟩
    | crcfinal len data => exact ⟨_, .crcfinal⟩
    | crccheck len data => exact ⟨_, .crccheck⟩
    | undefined op len data => cases hr

/-- The inversion of `exec`: a command answers `t` exactly by one of the cases of `Executes`. -/
theorem exec_eq_next_iff : exec i s = .next t ↔ Executes i s t := by
  refine ⟨fun h => ?_, Executes.exec_eq⟩
  obtain ⟨u, hu⟩ := executes_total i s
  cases h.symm.trans hu.exec_eq
  exact hu

theorem Executes.eq_of_nop (h : Executes (.nop len data) s t) : t = s := by
  cases h with
  | rejected h => cases h
  | nop => rfl

theorem Executes.eq_of_crcinit (h : Executes (.crcinit len data) s t) :
    t = (s.writeCrcRem 0).writeStatus (statusInit s.regs.status) := by
  cases h with
  | rejected h => cases h
  | crcinit => rfl

end Executes

/-! ### The legal register record -/

section Legal
variable {s t : State} {i : Instr}

theorem reset_legal : Regs.reset.Legal := by decide

/-- RDATA[7:RLEN] = 0 for a packed string whose length RLEN gives (R10, R23). -/
theorem pack_lt_of_length_eq {b : Bits} {n : Nibble} (h : b.length = n.toNat) : (pack b).toNat < 2 ^ n.toNat :=
  h ▸ pack_lt b

/-- No clause of legality reads SYN. -/
theorem writeSyn_legal_iff (y : BitVec 3) : (s.writeSyn y).regs.Legal ↔ s.regs.Legal := Iff.rfl

/-- A delivered remainder fits its four bits (R132, R133). -/
theorem deliverRemainder_legal (r : Nibble) (s : State) : (deliverRemainder r s).regs.Legal := by
  refine writeResult_legal (by decide) ?_ (by simp) (by simp) (by simp)
  have hr : (zext8 r).toNat = r.toNat := BitVec.toNat_setWidth_of_le (by decide)
  exact hr ▸ r.isLt

/-- CRCINIT keeps the result and V, and clears E and U (R130). -/
theorem crcinit_legal (hs : s.regs.Legal) :
    ((s.writeCrcRem 0).writeStatus (statusInit s.regs.status)).regs.Legal := by
  obtain ⟨hlen, hdata, -, habsent⟩ := hs
  exact ⟨hlen, hdata, by simp [Regs.statusLegal], by simpa [Regs.absentLegal] using habsent⟩

/-- Every command keeps the register record legal. Only NOP and CRCINIT need that it was legal before. -/
theorem Executes.legal (h : Executes i s t) (hs : s.regs.Legal) : t.regs.Legal := by
  cases h with
  | rejected _ => exact reject_legal _ s
  | nop => exact hs
  | @repdec len data _ h =>
    have hn : (BitVec.ofNat 4 (len.toNat / 3)).toNat = len.toNat / 3 := by rw [BitVec.toNat_ofNat]; omega
    refine writeResult_legal ?_ (pack_lt_of_length_eq (by simp [operand, hn])) (by simp) (by simp) (by simp)
    have htriplets : len.toNat / 3 = 0 ∨ len.toNat / 3 = 1 ∨ len.toNat / 3 = 2 := by omega
    obtain e | e | e := htriplets <;> simp [e]
  | hamenc _ => exact writeResult_legal (by decide) (pack_lt_of_length_eq rfl) (by simp) (by simp) (by simp)
  | hamdec _ =>
    rw [writeSyn_legal_iff]
    exact writeResult_legal (by decide) (pack_lt_of_length_eq rfl) (by simp) (by simp) (by simp)
  | crcinit => exact crcinit_legal hs
  | crcshift _ => exact deliverRemainder_legal _ s
  | crcfinal => exact deliverRemainder_legal _ s
  | crccheck => exact writeResult_legal (by decide) (pack_lt_of_length_eq rfl) (by simp) (by simp) (by simp)

end Legal

/-- Settles O44, by the kind of the step: reset gives the legal reset record, a command keeps legality by
`Executes.legal`, an idle step changes no register. -/
theorem legalRegistersAreKept : Obligations.LegalRegistersAreKept := by
  intro s t hs hstep
  obtain ⟨-, rfl⟩ | ⟨-, -, hexec⟩ | ⟨-, -, rfl⟩ := step_cases hstep
  · exact reset_legal
  · exact (exec_eq_next_iff.mp hexec).legal hs
  · exact hs

/-- Settles O45: the other half of the invariant of O44. -/
theorem resetRegistersAreLegal : Obligations.ResetRegistersAreLegal := reset_legal

/-! ### The writers of each flag and each register -/

section Writers
variable {i : Instr} {s t : State}

/-- A rejected command sets E, clears V and tells the kind in U; an accepted one other than NOP clears E and U and sets
V, which only CRCINIT keeps (R27). -/
theorem Executes.flags_except_Z (h : Executes i s t) (hi : i.opcode ≠ 0x0) :
    flagE t.regs.status = i.rejection.isSome ∧
    flagU t.regs.status = decide (i.rejection = some .opcode) ∧
    flagV t.regs.status =
      (if i.rejection.isSome then false else if i.opcode = 0x4 then flagV s.regs.status else true) := by
  cases h with
  | rejected h => simp [h]
  | nop => exact absurd rfl hi
  | repdec h => simp [Instr.rejection, Instr.opcode, h]
  | hamenc h => simp [Instr.rejection, Instr.opcode, h]
  | hamdec h => simp [Instr.rejection, Instr.opcode, h]
  | crcinit => simp [Instr.rejection, Instr.opcode]
  | crcshift h => simp [Instr.rejection, Instr.opcode, h]
  | crcfinal => simp [Instr.rejection, Instr.opcode]
  | crccheck => simp [Instr.rejection, Instr.opcode]

/-- Z is kept by a rejection, REPDEC and HAMENC; HAMDEC tests the SYN it leaves for zero and every CRC command the CRC_REM
it leaves (R27). -/
theorem Executes.flagZ_eq (h : Executes i s t) (hi : i.opcode ≠ 0x0) : flagZ t.regs.status =
    (if i.rejection.isSome ∨ i.opcode = 0x1 ∨ i.opcode = 0x2 then flagZ s.regs.status
     else if i.opcode = 0x3 then decide (t.regs.syn = 0) else decide (t.regs.crcRem = 0)) := by
  cases h with
  | rejected h => simp [h]
  | nop => exact absurd rfl hi
  | repdec h => simp [Instr.opcode]
  | hamenc h => simp [Instr.opcode]
  | hamdec h =>
    rw [if_neg (by simp [Instr.rejection, Instr.opcode, h])]
    exact flagZ_statusTested _
  | crcinit => simp [Instr.rejection, Instr.opcode]
  | crcshift h =>
    rw [if_neg (by simp [Instr.rejection, Instr.opcode, h])]
    exact flagZ_statusTested _
  | crcfinal => exact flagZ_statusTested _
  | crccheck => exact flagZ_statusTested _

/-- HAMDEC of length 7 is the only writer of SYN (R25). -/
theorem Executes.hamdec_of_syn_ne (h : Executes i s t) (hne : t.regs.syn ≠ s.regs.syn) :
    ∃ data, i = .hamdec 7 data := by
  cases h with
  | @hamdec len data _ hlen =>
    cases (BitVec.eq_of_toNat_eq hlen : len = 7)
    exact ⟨data, rfl⟩
  | _ => simp at hne

/-- CRCINIT, CRCFINAL and an accepted CRCSHIFT are the only writers of CRC_REM (R26). -/
theorem Executes.crc_of_crcRem_ne (h : Executes i s t) (hne : t.regs.crcRem ≠ s.regs.crcRem) :
    (∃ len data, i = .crcinit len data) ∨ (∃ len data, i = .crcfinal len data) ∨
      ∃ len data, i = .crcshift len data ∧ len.toNat ≤ 8 := by
  cases h with
  | crcinit => exact .inl ⟨_, _, rfl⟩
  | crcfinal => exact .inr (.inl ⟨_, _, rfl⟩)
  | crcshift hlen => exact .inr (.inr ⟨_, _, rfl, hlen⟩)
  | _ => simp at hne

end Writers

/-- Settles O34: NOP keeps the whole state; for any other command the rules for V, E, U and for Z. -/
theorem flagsFollowTheirWriters : Obligations.FlagsFollowTheirWriters := by
  intro i s
  obtain ⟨t, ht⟩ := executes_total i s
  refine ⟨t, ht.exec_eq, fun h0 hi => ?_, fun h0 _ => ?_⟩
  · obtain ⟨len, data, rfl⟩ := eq_nop_of_opcode h0 hi
    rw [ht.eq_of_nop]
  · obtain ⟨hE, hU, hV⟩ := ht.flags_except_Z h0
    exact ⟨hE, hU, hV, ht.flagZ_eq h0⟩

/-- Settles O35, a lemma for each register; what NOP and CRCINIT keep of the result follows from what they answer. -/
theorem registersChangeOnlyByTheirWriters : Obligations.RegistersChangeOnlyByTheirWriters := by
  intro i s t hexec
  have h := exec_eq_next_iff.mp hexec
  refine ⟨h.hamdec_of_syn_ne, h.crc_of_crcRem_ne, fun hne => ⟨?_, ?_⟩, ?_⟩
  · rintro ⟨len, data, rfl⟩
    simp [h.eq_of_nop] at hne
  · rintro ⟨len, data, rfl⟩
    simp [h.eq_of_crcinit] at hne
  · obtain ⟨u, hu, hinputs⟩ := exec_completes i s
    cases hexec.symm.trans hu
    exact hinputs

/-- Settles O36: each combinational unit writes values in which the state does not stand, and so does a rejection. -/
theorem combinationalUnitsKeepNothing : Obligations.CombinationalUnitsKeepNothing := by
  intro i s s' hop _
  obtain ⟨t, ht⟩ := executes_total i s
  cases ht with
  | rejected h => exact ⟨_, _, exec_of_rejected h s, exec_of_rejected h s', by simp [h]⟩
  | repdec h => exact ⟨_, _, execRepdec_of_le h, execRepdec_of_le h, by simp [Instr.opcode]⟩
  | hamenc h => exact ⟨_, _, execHamenc_of_eq h, execHamenc_of_eq h, by simp [Instr.opcode]⟩
  | hamdec h => exact ⟨_, _, execHamdec_of_eq h, execHamdec_of_eq h, by simp⟩
  | _ => simp [Instr.opcode] at hop

/-! ### The three kinds of step -/

section StepKinds
variable {s : State}

theorem step_of_rst (hr : s.sample.rst = true) : step s = .next s.afterSample.resetRegs := by
  simp only [step, if_pos hr]

theorem step_of_command (hr : s.sample.rst = false) (hv : s.sample.cmdValid = true) :
    step s = exec (decode s.sample.cmd) s.afterSample := by
  simp [step, hr, hv]

theorem step_of_idle (hr : s.sample.rst = false) (hv : s.sample.cmdValid = false) :
    step s = .next s.afterSample := by
  simp [step, hr, hv]

/-- The command on the first listed sample is executed on the registers as they are (R21). -/
theorem step_of_inputs_command {w : Word} {rest : List PortIn}
    (h : s.inputs = { rst := false, cmdValid := true, cmd := w } :: rest) :
    step s = exec (decode w) { s with inputs := rest } := by
  have hs := sample_of_cons h
  rw [step_of_command (by rw [hs]) (by rw [hs]), hs, State.afterSample, h, List.tail_cons]

end StepKinds

/-- Settles O42. -/
theorem everyStepCompletes : Obligations.EveryStepCompletes := step_completes

/-- Settles O39, each kind by its own equation of `step`; a command step completes because every command does. -/
theorem stepKindsFollowThePorts : Obligations.StepKindsFollowThePorts := by
  intro s valid w
  refine ⟨⟨_, step_of_rst rfl, rfl, rfl⟩, step_of_idle rfl rfl, ?_⟩
  obtain ⟨t, ht, -⟩ := exec_completes (decode w) s
  exact ⟨t, (step_of_command rfl rfl).trans ht, ht⟩

/-- Settles O41; for the word of a well-formed command the decoder gives the command back. -/
theorem stepRunsDecodedCommand : Obligations.StepRunsDecodedCommand := by
  refine ⟨fun i s rest hi h => ?_, fun w s rest h => step_of_inputs_command h⟩
  rw [step_of_inputs_command h, decode_encode hi]

end Sys2Proof.Machine

/-! PROOFS. A command given twice: what each write of the state does a second time, and with that which commands answer
the same state again (R47). -/

namespace Sys2Proof.Machine

/-! ### A write repeated -/

section Repeated
variable (s : State) (v : Byte) (n st r q : Nibble) (y : BitVec 3) (kind : RejectKind)

@[simp] theorem statusAccepted_statusAccepted : statusAccepted (statusAccepted st) = statusAccepted st := by
  rw [statusAccepted, flagZ_statusAccepted, statusAccepted]

@[simp] theorem statusInit_statusInit : statusInit (statusInit st) = statusInit st := by
  rw [statusInit, flagV_statusInit, statusInit]

@[simp] theorem statusRejected_statusRejected :
    statusRejected kind (statusRejected kind st) = statusRejected kind st := by
  rw [statusRejected, flagZ_statusRejected, statusRejected]

@[simp] theorem writeResult_writeResult : (s.writeResult v n st).writeResult v n st = s.writeResult v n st := rfl

/-- The two writes of HAMDEC, which write different registers. -/
@[simp] theorem writeSyn_writeResult_writeSyn :
    (((s.writeResult v n st).writeSyn y).writeResult v n st).writeSyn y = (s.writeResult v n st).writeSyn y := rfl

/-- The two writes of CRCINIT, which write different registers. -/
@[simp] theorem writeStatus_writeCrcRem_writeStatus :
    (((s.writeCrcRem r).writeStatus st).writeCrcRem r).writeStatus st = (s.writeCrcRem r).writeStatus st := rfl

/-- Of two remainders delivered, the first leaves no trace. -/
@[simp] theorem deliverRemainder_deliverRemainder :
    deliverRemainder r (deliverRemainder q s) = deliverRemainder r s := rfl

@[simp] theorem reject_reject : reject kind (reject kind s) = reject kind s := by
  apply State.ext_fields <;> simp

end Repeated

/-! ### A command repeated -/

section Again
variable {i : Instr} {s t : State}

/-- A command that writes what `t` holds already answers `t`. -/
theorem Executes.of_eq {u : State} (h : Executes i s u) (heq : u = t) : Executes i s t := heq ▸ h

/-- A command other than CRCSHIFT and CRCFINAL, rejected or accepted, writes nothing that its own second execution would
compute otherwise (R47). -/
theorem Executes.again (h : Executes i s t) (hshift : i.opcode ≠ 0x5) (hfinal : i.opcode ≠ 0x6) : Executes i t t := by
  cases h with
  | rejected hr => exact .of_eq (.rejected hr) (by simp)
  | nop => exact .nop
  | repdec hlen => exact .of_eq (.repdec hlen) (by simp)
  | hamenc hlen => exact .of_eq (.hamenc hlen) (by simp)
  | hamdec hlen => exact .of_eq (.hamdec hlen) (by simp)
  | crcinit => exact .of_eq .crcinit (by simp)
  | crccheck => exact .of_eq .crccheck rfl
  | crcshift => exact absurd rfl hshift
  | crcfinal => exact absurd rfl hfinal

end Again

/-- CRCSHIFT of the empty string leaves the remainder as it is, and so answers the same state again (R47, R132). -/
theorem Executes.again_of_crcshift_zero {data : Byte} {s t : State} (h : Executes (.crcshift 0 data) s t) :
    Executes (.crcshift 0 data) t t := by
  cases h with
  | rejected hr => simp [Instr.rejection] at hr
  | crcshift hlen => exact .of_eq (.crcshift hlen) rfl

/-- From remainder 0 the string of zeros and a last 1 leaves remainder 1, and then another one: x^LEN + 1 and 1 have
different remainders, since G divides none of x, …, x⁸ (R131). -/
theorem crcShift_lastBit_twice_ne : ∀ len : Nibble, 1 ≤ len.toNat → len.toNat ≤ 8 →
    crcShift 0 (operand len 1) ≠ crcShift (crcShift 0 (operand len 1)) (operand len 1) := by
  decide

/-- Settles O37. Idempotence is `Executes.again`; CRCFINAL and a CRCSHIFT with operand bits read the remainder they
write, and the counterexamples run the divider twice, CRCSHIFT's from reset with DATA = 1. -/
theorem idempotentCommands : Obligations.IdempotentCommands := by
  refine ⟨fun i s hshift hfinal _ => ?_, fun data s => ?_, fun len data s hs => ?_, fun len hpos hle => ?_⟩
  · obtain ⟨t, ht⟩ := executes_total i s
    exact ⟨t, ht.exec_eq, (ht.again hshift hfinal).exec_eq⟩
  · obtain ⟨t, ht⟩ := executes_total (.crcshift 0 data) s
    exact ⟨t, ht.exec_eq, ht.again_of_crcshift_zero.exec_eq⟩
  · refine ⟨_, _, Executes.crcfinal.exec_eq, Executes.crcfinal.exec_eq, ?_⟩
    simp only [deliverRemainder_crcRem, hs]
    decide
  · refine ⟨1, State.reset, _, _, (Executes.crcshift hle).exec_eq, (Executes.crcshift hle).exec_eq, fun heq => ?_⟩
    have hrem := congrArg (·.regs.crcRem) heq
    exact crcShift_lastBit_twice_ne len hpos hle hrem

end Sys2Proof.Machine

/-! PROOFS. The command word: its fields as numbers, the decoder and the encoder as inverses of each other, the opcode
table, the words R64 accepts, and the bits no command reads (R60 to R68). -/

namespace Sys2Proof

/-! ### Fields as numbers -/

section FieldNumbers
variable (w : Word) (op len : Nibble) (data : Byte)

theorem opField_toNat : (opField w).toNat = w.toNat / 4096 := by
  rw [opField, BitVec.extractLsb'_toNat, Nat.shiftRight_eq_div_pow]
  omega

theorem lenField_toNat : (lenField w).toNat = w.toNat / 256 % 16 := by
  rw [lenField, BitVec.extractLsb'_toNat, Nat.shiftRight_eq_div_pow]

theorem dataField_toNat : (dataField w).toNat = w.toNat % 256 := by
  rw [dataField, BitVec.extractLsb'_toNat, Nat.shiftRight_zero]

/-- The field on the right of a concatenation stands below the other. -/
theorem toNat_append_eq_add {m n : Nat} (x : BitVec m) (y : BitVec n) :
    (x ++ y).toNat = x.toNat * 2 ^ n + y.toNat := by
  rw [BitVec.toNat_append, ← Nat.shiftLeft_add_eq_or_of_lt y.isLt, Nat.shiftLeft_eq]

theorem commandWord_toNat : (commandWord op len data).toNat = op.toNat * 4096 + len.toNat * 256 + data.toNat := by
  have happend : (commandWord op len data).toNat = (op ++ len).toNat * 2 ^ 8 + data.toNat :=
    toNat_append_eq_add (op ++ len) data
  rw [happend, toNat_append_eq_add]
  omega

end FieldNumbers

/-- Settles O1. -/
theorem commandFieldsArePlaced : Obligations.CommandFieldsArePlaced :=
  ⟨fun w => ⟨opField_toNat w, lenField_toNat w, dataField_toNat w⟩, commandWord_toNat⟩

/-! ### Decoder and encoder -/

section Decoded
variable (w : Word)

/-- The decoder gives a command of the word's own opcode, with LEN and DATA as the word holds them (R60, R63). -/
theorem decode_fields :
    (decode w).opcode = opField w ∧ (decode w).len = lenField w ∧ (decode w).data = dataField w := by
  obtain ⟨hop, h⟩ | ⟨hop, h⟩ | ⟨hop, h⟩ | ⟨hop, h⟩ | ⟨hop, h⟩ | ⟨hop, h⟩ | ⟨hop, h⟩ | ⟨hop, h⟩ | ⟨-, h⟩ :=
    decode_cases w
  pick_goal 9
  · rw [h]; exact ⟨rfl, rfl, rfl⟩
  all_goals rw [h, hop]; exact ⟨rfl, rfl, rfl⟩

@[simp] theorem opcode_decode : (decode w).opcode = opField w := by
  obtain ⟨hop, -, -⟩ := decode_fields w
  exact hop

@[simp] theorem len_decode : (decode w).len = lenField w := by
  obtain ⟨-, hlen, -⟩ := decode_fields w
  exact hlen

@[simp] theorem data_decode : (decode w).data = dataField w := by
  obtain ⟨-, -, hdata⟩ := decode_fields w
  exact hdata

/-- Only words of opcode 8 and above decode to the undefined row (R65). -/
@[simp] theorem wellFormed_decode : (decode w).wellFormed = true := by
  obtain ⟨-, h⟩ | ⟨-, h⟩ | ⟨-, h⟩ | ⟨-, h⟩ | ⟨-, h⟩ | ⟨-, h⟩ | ⟨-, h⟩ | ⟨-, h⟩ | ⟨hop, h⟩ := decode_cases w
  pick_goal 9
  · simpa [h, Instr.wellFormed, isUndefinedOpcode] using hop
  all_goals rw [h]; rfl

@[simp] theorem encode_decode : encode (decode w) = w := by
  rw [encode, opcode_decode, len_decode, data_decode, commandWord_fields]

end Decoded

/-- Settles O2. -/
theorem decodeOfEncodeIsInstr : Obligations.DecodeOfEncodeIsInstr := fun _ hi => decode_encode hi

/-- Settles O3. -/
theorem encodeOfDecodeIsWord : Obligations.EncodeOfDecodeIsWord := fun w => ⟨wellFormed_decode w, encode_decode w⟩

/-- Settles O5: each word is the word of its command, which decodes back. -/
theorem specExampleWordsDecode : Obligations.SpecExampleWordsDecode :=
  ⟨decode_encode (i := .nop 15 0xFF) rfl, decode_encode (i := .repdec 6 0b111000) rfl,
    decode_encode (i := .hamenc 4 0b1011) rfl, decode_encode (i := .hamdec 7 0b0110011) rfl,
    decode_encode (i := .crcinit 0 0) rfl, decode_encode (i := .crcshift 5 0b10110) rfl,
    decode_encode (i := .crcfinal 0 0) rfl, decode_encode (i := .crccheck 0 0) rfl,
    decode_encode (i := .undefined 8 1 0x23) rfl⟩

/-! ### The opcode table -/

theorem commandWord_and (op op' len len' : Nibble) (data data' : Byte) :
    commandWord op len data &&& commandWord op' len' data' =
      commandWord (op &&& op') (len &&& len') (data &&& data') := by
  change (op ++ len ++ data : BitVec (4 + 4 + 8)) &&& (op' ++ len' ++ data') = _
  rw [BitVec.and_append, BitVec.and_append]
  rfl

/-- No row of the table fixes a bit of LEN or DATA (R63). -/
theorem mask_of_mem_opcodeTable : ∀ row ∈ opcodeTable, row.mask = commandWord (opField row.mask) 0 0 := by decide

/-- So whether a row covers a word depends on the word's opcode alone. -/
theorem covers_eq_of_opField_eq {row : OpcodeRow} (hrow : row ∈ opcodeTable) {w w' : Word}
    (hop : opField w = opField w') : row.covers w = row.covers w' := by
  have masked (v : Word) : v &&& row.mask = commandWord (opField v &&& opField row.mask) 0 0 := by
    rw [mask_of_mem_opcodeTable row hrow, ← commandWord_fields v, commandWord_and]
    simp
  rw [OpcodeRow.covers, OpcodeRow.covers, masked w, masked w', hop]

/-- Which row of the decoder a word belongs to depends on its opcode alone (R63). -/
theorem mnemonic_decode_eq_of_opField_eq {w w' : Word} (hop : opField w = opField w') :
    (decode w).mnemonic = (decode w').mnemonic := by
  unfold decode
  rw [hop]
  split <;> rfl

/-- The table and the decoder agree on the sixteen opcodes (R63). -/
theorem opcodeTable_covers_opcode : ∀ op : Nibble,
    (opcodeTable.filter fun row => row.covers (commandWord op 0 0)).map OpcodeRow.mnemonic =
      [(decode (commandWord op 0 0)).mnemonic] := by
  decide

/-- Settles O4: table and decoder look at OP alone, and they agree on each opcode. -/
theorem opcodeTableHasOneRowPerWord : Obligations.OpcodeTableHasOneRowPerWord := by
  intro w
  have hop : opField w = opField (commandWord (opField w) 0 0) := (opField_commandWord _ _ _).symm
  rw [List.filter_congr fun row hrow => covers_eq_of_opField_eq hrow hop, mnemonic_decode_eq_of_opField_eq hop,
    opcodeTable_covers_opcode]

end Sys2Proof

namespace Sys2Proof.Machine

/-! ### Accepted and rejected words -/

/-- The pairs of OP and LEN that R64 accepts, as numbers. -/
def AcceptedFields (op len : Nat) : Prop :=
  (op = 0 ∨ op = 4 ∨ op = 6 ∨ op = 7) ∨ ((op = 1 ∨ op = 5) ∧ len ≤ 8) ∨ (op = 2 ∧ len = 4) ∨ (op = 3 ∧ len = 7)

theorem accepted_iff (w : Word) : accepted w = true ↔ AcceptedFields (opField w).toNat (lenField w).toNat := by
  simp [accepted, AcceptedFields, ← BitVec.toNat_inj, or_assoc]

section Rejection
variable {i : Instr}

/-- The commands' own length checks accept what R64 accepts. -/
theorem rejection_eq_none_iff (hi : i.wellFormed = true) :
    i.rejection = none ↔ AcceptedFields i.opcode.toNat i.len.toNat := by
  cases i with
  | undefined op len data =>
    have hop : 8 ≤ op.toNat := by simpa [Instr.wellFormed, isUndefinedOpcode] using hi
    simp only [Instr.rejection, Instr.opcode, AcceptedFields, reduceCtorEq, false_iff]
    omega
  | _ => simp [Instr.rejection, Instr.opcode, Instr.len, AcceptedFields]

/-- A rejection is of kind OPCODE exactly for the opcodes of 8 and above (R64, R175). -/
theorem rejection_kind (hi : i.wellFormed = true) {kind : RejectKind} (h : i.rejection = some kind) :
    kind = if 8 ≤ i.opcode.toNat then .opcode else .length := by
  cases i with
  | undefined op len data =>
    have hop : 8 ≤ op.toNat := by simpa [Instr.wellFormed, isUndefinedOpcode] using hi
    cases h
    exact (if_pos hop).symm
  | _ => simp_all [Instr.rejection, Instr.opcode]

end Rejection

/-- Settles O6: `accepted` and the commands' own checks both say R64's set. An accepted NOP answers its own state and any
other accepted command clears E and U (`Executes.flags_except_Z`); a rejected one does `reject`. -/
theorem acceptedWordsAreExactlyThese : Obligations.AcceptedWordsAreExactlyThese := by
  intro w s
  have hrejection := rejection_eq_none_iff (wellFormed_decode w)
  have hkind := @rejection_kind _ (wellFormed_decode w)
  have haccepted := accepted_iff w
  simp only [opcode_decode, len_decode, opField_toNat, lenField_toNat] at hrejection hkind haccepted
  intro op len
  split
  case isTrue hfields =>
    have hnone : (decode w).rejection = none := hrejection.mpr hfields
    obtain ⟨t, ht⟩ := executes_total (decode w) s
    have hop : (decode w).opcode = 0 ↔ op = 0 := by
      rw [opcode_decode, ← BitVec.toNat_inj, opField_toNat]
      rfl
    refine ⟨haccepted.mpr hfields, hnone, t, ht.exec_eq, fun h0 => ?_, fun h0 => ?_⟩
    · obtain ⟨len, data, hnop⟩ := eq_nop_of_opcode (hop.mpr h0) (wellFormed_decode w)
      rw [hnop] at ht
      exact ht.eq_of_nop
    · obtain ⟨hE, hU, -⟩ := ht.flags_except_Z (mt hop.mp h0)
      simp [hE, hU, hnone]
  case isFalse hfields =>
    obtain ⟨kind, hsome⟩ := Option.ne_none_iff_exists'.mp (mt hrejection.mp hfields)
    obtain rfl := hkind hsome
    exact ⟨eq_false_of_ne_true (mt haccepted.mp hfields), _, hsome, exec_of_rejected hsome s, reject_rejects _ s⟩

/-! ### Bits that no command reads -/

section IgnoredBits
variable {i j : Instr} {len : Nibble} {data data' : Byte} {s : State}

/-- Two commands that answer alike complete with one and the same next state. -/
theorem exec_complete_alike (h : exec i s = exec j s) : ∃ t, exec i s = .next t ∧ exec j s = .next t := by
  obtain ⟨t, ht, -⟩ := exec_completes i s
  exact ⟨t, ht, h ▸ ht⟩

theorem operand_congr (h : ∀ j < len.toNat, data.getLsbD j = data'.getLsbD j) : operand len data = operand len data' :=
  unpack_congr h

/-- A codeword's bits c1 to c7 lie in DATA[6:0] (R121). -/
theorem codeBit_congr (h : ∀ j < 7, data.getLsbD j = data'.getLsbD j) {p : Nat} (hp : 1 ≤ p) :
    codeBit data p = codeBit data' p := h (7 - p) (by omega)

theorem syndrome_congr (h : ∀ j < 7, data.getLsbD j = data'.getLsbD j) : syndrome data = syndrome data' := by
  simp [syndrome, codeBit_congr h]

theorem hamDecode_congr (h : ∀ j < 7, data.getLsbD j = data'.getLsbD j) : hamDecode data = hamDecode data' := by
  simp [hamDecode, correctedBit, codeBit_congr h, syndrome_congr h]

theorem execRepdec_congr (h : ∀ j < len.toNat, data.getLsbD j = data'.getLsbD j) :
    execRepdec len data s = execRepdec len data' s := by
  rw [execRepdec, execRepdec, operand_congr h]

theorem execCrcshift_congr (h : ∀ j < len.toNat, data.getLsbD j = data'.getLsbD j) :
    execCrcshift len data s = execCrcshift len data' s := by
  rw [execCrcshift, execCrcshift, operand_congr h]

theorem execHamenc_congr (h : ∀ j < len.toNat, data.getLsbD j = data'.getLsbD j) :
    execHamenc len data s = execHamenc len data' s := by
  by_cases hlen : len.toNat = 4
  · rw [hlen] at h
    rw [execHamenc_of_eq hlen, execHamenc_of_eq hlen, h 3 (by omega), h 2 (by omega), h 1 (by omega), h 0 (by omega)]
  · rw [execHamenc_of_ne hlen, execHamenc_of_ne hlen]

theorem execHamdec_congr (h : ∀ j < len.toNat, data.getLsbD j = data'.getLsbD j) :
    execHamdec len data s = execHamdec len data' s := by
  by_cases hlen : len.toNat = 7
  · rw [hlen] at h
    rw [execHamdec_of_eq hlen, execHamdec_of_eq hlen, hamDecode_congr h, syndrome_congr h]
  · rw [execHamdec_of_ne hlen, execHamdec_of_ne hlen]

end IgnoredBits

/-- Settles O7: the commands without an operand read no field, and each operand command reads its operand's bits alone. -/
theorem ignoredFieldsChangeNothing : Obligations.IgnoredFieldsChangeNothing := by
  refine ⟨fun op op' len len' data data' s => ?_, fun len data data' s h => ?_⟩
  · exact ⟨exec_complete_alike rfl, exec_complete_alike rfl, exec_complete_alike rfl, exec_complete_alike rfl,
      exec_complete_alike rfl⟩
  · exact ⟨exec_complete_alike (execRepdec_congr h), exec_complete_alike (execHamenc_congr h),
      exec_complete_alike (execHamdec_congr h), exec_complete_alike (execCrcshift_congr h)⟩

end Sys2Proof.Machine

/-! PROOFS. The assembler and the disassembler, on lines and on text (R66, R68 to R70). -/

namespace Sys2Proof.Machine

/-! ### Lines -/

section Lines
variable {i : Instr} {op len : Nibble} {data : Byte} {s : Bits}

theorem assembleOperand_showBits (h : s.length ≤ 8) : assembleOperand op (showBits s) = some [operandWord op s] := by
  simp only [assembleOperand, parseBits_showBits, if_pos h]

@[simp] theorem operand_length (len : Nibble) (data : Byte) : (operand len data).length = len.toNat :=
  unpack_length data len.toNat

/-- The mnemonic of a command without operand, LEN and DATA being 0, assembles to the command's word (R66, R68). -/
theorem plainWord_of_canonical (h : (len == 0 && data == 0) = true) : plainWord op = commandWord op len data := by
  obtain ⟨rfl, rfl⟩ : len = 0 ∧ data = 0 := by simpa using h
  rfl

/-- The operand of a command whose ignored bits are 0 assembles to the command's word (R66, R68). -/
theorem assembleOperand_of_canonical (h : (decide (len.toNat ≤ 8) && pack (operand len data) == data) = true) :
    assembleOperand op (showBits (operand len data)) = some [commandWord op len data] := by
  obtain ⟨hlen, hpack⟩ : len.toNat ≤ 8 ∧ pack (operand len data) = data := by simpa using h
  rw [assembleOperand_showBits (by simpa using hlen), operandWord, operand_length, hpack, BitVec.ofNat_toNat,
    BitVec.setWidth_eq]

/-- The mnemonic form of a canonical command assembles to its word (R66, R68). -/
theorem assemble_mnemonicLine (h : Instr.canonical i = true) : assemble (mnemonicLine i) = some [encode i] := by
  cases i with
  | nop len data => exact congrArg (some [·]) (plainWord_of_canonical h)
  | repdec len data => exact assembleOperand_of_canonical h
  | hamenc len data => exact assembleOperand_of_canonical h
  | hamdec len data => exact assembleOperand_of_canonical h
  | crcinit len data => exact congrArg (some [·]) (plainWord_of_canonical h)
  | crcshift len data => exact assembleOperand_of_canonical h
  | crcfinal len data => exact congrArg (some [·]) (plainWord_of_canonical h)
  | crccheck len data => exact congrArg (some [·]) (plainWord_of_canonical h)
  | undefined op len data => cases h

/-- A canonical command's word is disassembled to its mnemonic form. -/
theorem disassemble_encode (hi : i.wellFormed = true) (h : Instr.canonical i = true) :
    disassemble (encode i) = mnemonicLine i := by
  rw [disassemble, decode_encode hi, if_pos h]

/-- A disassembled word assembles to itself: by its mnemonic form if it is canonical, else verbatim by `.cmd` (R68). -/
theorem assemble_disassemble (w : Word) : assemble (disassemble w) = some [w] := by
  unfold disassemble
  split
  case isTrue h => rw [assemble_mnemonicLine h, encode_decode]
  case isFalse => rfl

/-- The word made from a string carries it with no ignored bit set (R62, R68). -/
theorem canonical_pack (h : s.length ≤ 8) :
    (decide ((BitVec.ofNat 4 s.length).toNat ≤ 8) && pack (operand (BitVec.ofNat 4 s.length) (pack s)) == pack s)
      = true := by
  rw [operand_pack h, operand_length_toNat h]
  simpa using h

end Lines

/-- Settles O8. An operand line's word is that of a canonical command, whose mnemonic form is the line. -/
theorem assemblerRoundTrip : Obligations.AssemblerRoundTrip := by
  refine ⟨assemble_disassemble, fun s h => ?_⟩
  have line (form : List Char → AsmLine) :
      form (showBits (operand (BitVec.ofNat 4 s.length) (pack s))) = form (showBits s) := by rw [operand_pack h]
  exact ⟨assembleOperand_showBits h, assembleOperand_showBits h, assembleOperand_showBits h,
    assembleOperand_showBits h,
    (disassemble_encode (i := .repdec _ _) rfl (canonical_pack h)).trans (line .repdec),
    (disassemble_encode (i := .hamenc _ _) rfl (canonical_pack h)).trans (line .hamenc),
    (disassemble_encode (i := .hamdec _ _) rfl (canonical_pack h)).trans (line .hamdec),
    (disassemble_encode (i := .crcshift _ _) rfl (canonical_pack h)).trans (line .crcshift)⟩

/-! ### Text -/

section Text
variable {mnemonic rest quoted : List Char} {l : AsmLine}

theorem hexValue_hexChar : ∀ v : Nibble, hexValue (hexChar v) = some v := by decide

/-- The two low hexadecimal digits of a word are its DATA. -/
theorem dataField_eq_append (w : Word) : w.extractLsb' 4 4 ++ w.extractLsb' 0 4 = dataField w :=
  BitVec.extractLsb'_append_extractLsb'_eq_extractLsb' rfl

theorem parseHexWord_showHexWord (w : Word) : parseHexWord (showHexWord w) = some w := by
  simp only [showHexWord, parseHexWord, hexValue_hexChar, dataField_eq_append]
  exact congrArg some (commandWord_fields w)

@[simp] theorem unquote_quoted (quoted : List Char) : unquote (quoteChar :: (quoted ++ [quoteChar])) = some quoted := by
  simp [unquote]

/-- A line with a space in it is none of the lines without an operand (R68). -/
theorem lookup_plainForms_of_space {line : List Char} (h : ' ' ∈ line) : plainForms.lookup line = none := by
  rw [List.lookup_eq_none_iff]
  intro form hform
  have hspace : ∀ form ∈ plainForms, ' ' ∉ form.1 := by decide
  rw [bne_iff_ne]
  rintro rfl
  exact hspace form hform h

/-- What stands before the first space of a line is its mnemonic. -/
theorem takeWhile_space (h : ' ' ∉ mnemonic) : (mnemonic ++ ' ' :: rest).takeWhile (· != ' ') = mnemonic := by
  have hne : ∀ c ∈ mnemonic, (c != ' ') = true := fun c hc => bne_iff_ne.mpr (ne_of_mem_of_not_mem hc h)
  rw [List.takeWhile_append_of_pos hne]
  simp

/-- How a mnemonic, a space and an operand are read (log entry 14). -/
theorem parseLine_of_space (h : ' ' ∉ mnemonic) : parseLine (mnemonic ++ ' ' :: rest) =
    if mnemonic = ['.', 'c', 'm', 'd'] then (parseHexWord rest).map AsmLine.cmd
    else (unquote rest).bind (operandForm mnemonic) := by
  have hdrop : (mnemonic ++ ' ' :: rest).drop (mnemonic.length + 1) = rest := by simp [List.drop_append]
  simp only [parseLine, takeWhile_space h, hdrop, lookup_plainForms_of_space (line := mnemonic ++ ' ' :: rest) (by simp)]
  split
  · rfl
  · cases unquote rest <;> rfl

theorem parseLine_cmd (w : Word) : parseLine (showLine (.cmd w)) = some (.cmd w) := by
  have hline : showLine (.cmd w) = ['.', 'c', 'm', 'd'] ++ ' ' :: showHexWord w := rfl
  rw [hline, parseLine_of_space (by decide), if_pos rfl, parseHexWord_showHexWord]
  rfl

/-- An operand line reads back as the line of its mnemonic. No mnemonic of R68 to R70 with an operand holds a space or is
`.cmd`. -/
theorem parseLine_showOperandLine (hspace : ' ' ∉ mnemonic) (hcmd : mnemonic ≠ ['.', 'c', 'm', 'd'])
    (hform : operandForm mnemonic quoted = some l) : parseLine (showOperandLine mnemonic quoted) = some l := by
  rw [showOperandLine, parseLine_of_space hspace, if_neg hcmd, unquote_quoted]
  exact hform

theorem parseLine_showLine (l : AsmLine) : parseLine (showLine l) = some l := by
  cases l with
  | nop => decide
  | crcinit => decide
  | crcfinal => decide
  | crccheck => decide
  | cmd w => exact parseLine_cmd w
  | _ => exact parseLine_showOperandLine (by decide) (by decide) rfl

end Text

/-- Settles O9: the text of a line reads back as the line, and the disassembler's line assembles to the word. -/
theorem assemblyTextRoundTrip : Obligations.AssemblyTextRoundTrip := by
  refine ⟨parseLine_showLine, fun w => ?_⟩
  simp only [assembleText, disassembleText, parseLine_showLine, assemble_disassemble]

end Sys2Proof.Machine

/-! PROOFS. The repetition decoder: which bits of the operand a result bit votes over, and what REPDEC makes of a string
(R100 to R104). -/

namespace Sys2Proof.Machine

/-! ### Bits of a packed string and of an operand -/

section Bits
variable {s : Bits} {len : Nibble} {data : Byte} {i : Nat}

/-- The bit i places below the first bit of a packed string is s_i (R10). -/
theorem pack_getLsbD_of_lt (hs : s.length ≤ 8) (hi : i < s.length) : (pack s).getLsbD (s.length - 1 - i) = s[i] := by
  rw [← unpack_getElem (pack s) s.length i (by simpa using hi)]
  simp only [unpack_pack hs]

/-- The bits above a packed string are 0 (R10). -/
theorem pack_getLsbD_of_le (hi : s.length ≤ i) : (pack s).getLsbD i = false := by
  simp [pack_getLsbD, Nat.not_lt.mpr hi]

/-- The received bit i of an operand is DATA[LEN-1-i] (R62). -/
theorem operand_getD (hi : i < len.toNat) : (operand len data).getD i false = data.getLsbD (len.toNat - 1 - i) := by
  rw [List.getD_eq_getElem _ _ (by simpa using hi)]
  exact unpack_getElem data len.toNat i _

end Bits

/-! ### Triplets -/

section Triplets
variable {s : Bits}

/-- A string with no complete triplet decodes to the empty string (R102). -/
theorem decodeTriplets_of_length_lt (h : s.length < 3) : decodeTriplets s = [] := by
  rw [← List.length_eq_zero_iff, decodeTriplets_length]
  omega

/-- The bits after the last complete triplet have no influence (R102). -/
theorem decodeTriplets_take_complete (s : Bits) : decodeTriplets (s.take (3 * (s.length / 3))) = decodeTriplets s := by
  induction s using decodeTriplets.induct with
  | case1 a b c rest ih =>
    have hlength : 3 * ((a :: b :: c :: rest).length / 3) = 3 * (rest.length / 3) + 1 + 1 + 1 := by
      simp only [List.length_cons]
      omega
    rw [hlength]
    simp [decodeTriplets, ih]
  | case2 s hshort =>
    have hs : s.length < 3 := by
      match s, hshort with
      | a :: b :: c :: rest, hshort => exact absurd rfl (hshort a b c rest)
      | [], _ | [_], _ | [_, _], _ => simp
    rw [decodeTriplets_of_length_lt hs, decodeTriplets_of_length_lt (by simp; omega)]

/-- Of three copies of a bit with some flipped, the majority is the bit unless two or three are (R103). -/
theorem maj_flips : ∀ b e0 e1 e2 : Bool,
    maj (b ^^ e0) (b ^^ e1) (b ^^ e2) = if e0.toNat + e1.toNat + e2.toNat ≤ 1 then b else !b := by decide

theorem repetitionEncode_cons (x : Bool) (b : Bits) : repetitionEncode (x :: b) = x :: x :: x :: repetitionEncode b :=
  rfl

@[simp] theorem repetitionEncode_length (b : Bits) : (repetitionEncode b).length = 3 * b.length := by
  induction b with
  | nil => rfl
  | cons x b ih => simp only [repetitionEncode_cons, List.length_cons, ih]; omega

/-- Decoding undoes the repetition encoding of a string of any length (R104, R150). -/
@[simp] theorem decodeTriplets_repetitionEncode (b : Bits) : decodeTriplets (repetitionEncode b) = b := by
  induction b with
  | nil => rfl
  | cons x b ih =>
    have hmaj : maj x x x = x := by simp [maj]
    rw [repetitionEncode_cons, decodeTriplets, ih, hmaj]

end Triplets

/-! ### REPDEC -/

section Repdec
variable {b : Bits} {len : Nibble} {data : Byte} {k : Nat}

theorem decode_repdec (len : Nibble) (data : Byte) : decode (commandWord 0x1 len data) = .repdec len data :=
  decode_encode (i := .repdec len data) rfl

/-- RLEN holds the number of complete triplets, which never exceeds its four bits (R101). -/
theorem triplets_toNat (len : Nibble) : (BitVec.ofNat 4 (len.toNat / 3)).toNat = len.toNat / 3 := by
  rw [BitVec.toNat_ofNat]
  omega

/-- RDATA[n-1-k] is the majority of the triplet at DATA[L-1-3k] and the two bits below it (R101). -/
theorem repdec_rdata_getLsbD (hlen : len.toNat ≤ 8) (hk : k < len.toNat / 3) :
    (pack (decodeTriplets (operand len data))).getLsbD (len.toNat / 3 - 1 - k) =
      maj (data.getLsbD (len.toNat - 1 - 3 * k)) (data.getLsbD (len.toNat - 1 - (3 * k + 1)))
        (data.getLsbD (len.toNat - 1 - (3 * k + 2))) := by
  have hn : (decodeTriplets (operand len data)).length = len.toNat / 3 := by simp
  rw [← hn] at hk ⊢
  rw [pack_getLsbD_of_lt (by omega) hk, decodeTriplets_getElem, operand_getD (by omega), operand_getD (by omega),
    operand_getD (by omega)]

/-- What REPDEC does with a string of at most 8 bits as its operand (R101). -/
theorem exec_repdec_pack (h : b.length ≤ 8) (s : State) :
    exec (.repdec (BitVec.ofNat 4 b.length) (pack b)) s =
      .next (s.writeResult (pack (decodeTriplets b)) (BitVec.ofNat 4 (b.length / 3))
        (statusAccepted s.regs.status)) := by
  have hlen := operand_length_toNat h
  rw [(Executes.repdec (hlen.le.trans h)).exec_eq, operand_pack h, hlen]

/-- The same for the word the assembler makes of the string (R68, R101). -/
theorem exec_repdec_operandWord (h : b.length ≤ 8) (s : State) :
    exec (decode (operandWord 0x1 b)) s =
      .next (s.writeResult (pack (decodeTriplets b)) (BitVec.ofNat 4 (b.length / 3))
        (statusAccepted s.regs.status)) := by
  rw [operandWord, decode_repdec, exec_repdec_pack h]

end Repdec

/-- Settles O12: an accepted REPDEC is one write of a result, whose bits are the triplets' majorities. -/
theorem repdecDecodesTriplets : Obligations.RepdecDecodesTriplets := by
  intro len data s
  refine ⟨decode_repdec len data, fun hlen => ?_, fun hlen => ⟨_, execRepdec_of_lt hlen, reject_rejects .length s⟩⟩
  exact ⟨_, execRepdec_of_le hlen, triplets_toNat len, fun k hk => repdec_rdata_getLsbD hlen hk,
    fun j hj => pack_getLsbD_of_le (by simpa using hj), by simp [State.flagsAre], rfl, rfl, rfl⟩

/-- Settles O13: the complete triplets alone decode to the same bits, and their number is the same. -/
theorem repdecDropsPartialTriplet : Obligations.RepdecDropsPartialTriplet := by
  intro b s hb
  have hlength : (b.take (3 * (b.length / 3))).length / 3 = b.length / 3 := by
    rw [List.length_take]
    omega
  refine ⟨_, exec_repdec_operandWord hb s, ?_⟩
  rw [exec_repdec_operandWord ((List.length_take_le' _ b).trans hb), decodeTriplets_take_complete, hlength]

/-- Settles O14: the operand is one triplet, and its majority is `maj_flips`; STATUS does not depend on the flips. -/
theorem repdecCorrectsOneFlip : Obligations.RepdecCorrectsOneFlip := by
  intro b e0 e1 e2 s
  have hexec := exec_repdec_pack (b := [b ^^ e0, b ^^ e1, b ^^ e2]) (by simp) s
  refine ⟨_, hexec, by simp, ?_, by simp [State.flagsAre]⟩
  rw [writeResult_rdata, decodeTriplets, decodeTriplets_of_length_lt (by simp), maj_flips]

/-- Settles O15: the encoding of one or two bits is an operand of 3 or 6 bits, and decoding undoes it. -/
theorem repdecRoundTrip : Obligations.RepdecRoundTrip := by
  intro b s hb
  have hlength : (repetitionEncode b).length ≤ 8 := by rw [repetitionEncode_length]; omega
  refine ⟨_, exec_repdec_operandWord hlength s, ?_, ?_⟩
  · rw [writeResult_rdata, decodeTriplets_repetitionEncode]
  · rw [writeResult_rlen, repetitionEncode_length, Nat.mul_div_cancel_left _ (by decide),
      operand_length_toNat (by omega)]

end Sys2Proof.Machine

/-! PROOFS. The Hamming encoder: the codeword HAMENC delivers, bit by bit, and the code these codewords make: linear, of
distance 3 and of syndrome 0 (R110 to R113). -/

namespace Sys2Proof.Machine

/-! ### Packed strings -/

section Packed
variable {s r : Bits} {i : Nat}

/-- Codeword position i + 1 of a packed codeword is its bit i, counted from 0 (R10, R111). -/
theorem codeBit_pack (hs : s.length = 7) (hi : i < s.length) : codeBit (pack s) (i + 1) = s[i] := by
  have hplace : 7 - (i + 1) = s.length - 1 - i := by omega
  rw [codeBit, hplace, pack_getLsbD_of_lt (by omega) hi]

/-- Packing is linear over GF(2) on strings of one length (R10, R11). -/
theorem pack_zipWith_xor (h : s.length = r.length) : pack (List.zipWith (· ^^ ·) s r) = pack s ^^^ pack r := by
  apply BitVec.eq_of_getLsbD_eq
  intro j hj
  simp only [BitVec.getLsbD_xor, pack_getLsbD, List.length_zipWith, ← h, Nat.min_self]
  by_cases hlt : j < s.length
  · have hs : s.length - 1 - j < s.length := by omega
    have hr : s.length - 1 - j < r.length := by omega
    simp [hj, hlt, hs, hr]
  · simp [hlt]

end Packed

/-! ### The codeword of an operand -/

/-- The codeword of the data block DATA[3:0], as HAMENC delivers it in RDATA (R111). -/
def hamCodeword (data : Byte) : Byte :=
  pack (hamEncode (data.getLsbD 3) (data.getLsbD 2) (data.getLsbD 1) (data.getLsbD 0))

section Codeword
variable (data a b : Byte)

/-- An accepted HAMENC is one write of the codeword (R111). -/
theorem exec_hamenc {len : Nibble} (h : len.toNat = 4) (s : State) :
    exec (.hamenc len data) s = .next (s.writeResult (hamCodeword data) 7 (statusAccepted s.regs.status)) :=
  (Executes.hamenc h).exec_eq

/-- The bits c1 to c7 of a codeword are p1, p2, d0, p3, d1, d2, d3 (R110). -/
theorem codeBit_hamCodeword :
    let d0 := data.getLsbD 3
    let d1 := data.getLsbD 2
    let d2 := data.getLsbD 1
    let d3 := data.getLsbD 0
    codeBit (hamCodeword data) 1 = (d0 ^^ d1 ^^ d3) ∧ codeBit (hamCodeword data) 2 = (d0 ^^ d2 ^^ d3) ∧
    codeBit (hamCodeword data) 3 = d0 ∧ codeBit (hamCodeword data) 4 = (d1 ^^ d2 ^^ d3) ∧
    codeBit (hamCodeword data) 5 = d1 ∧ codeBit (hamCodeword data) 6 = d2 ∧ codeBit (hamCodeword data) 7 = d3 := by
  have bit (i : Nat) (hi : i < 7) := codeBit_pack
    (s := hamEncode (data.getLsbD 3) (data.getLsbD 2) (data.getLsbD 1) (data.getLsbD 0)) rfl hi
  exact ⟨bit 0 (by decide), bit 1 (by decide), bit 2 (by decide), bit 3 (by decide), bit 4 (by decide),
    bit 5 (by decide), bit 6 (by decide)⟩

/-- A codeword has seven bits, so RDATA[7] is 0 (R111). -/
theorem hamCodeword_getLsbD_seven : (hamCodeword data).getLsbD 7 = false := pack_getLsbD_of_le (by rfl)

/-- DATA[7:4] has no influence (R111). -/
theorem hamCodeword_setWidth_four : hamCodeword ((data.setWidth 4).setWidth 8) = hamCodeword data := by
  simp [hamCodeword]

/-- Each codeword bit is an exclusive or of data bits, so the codeword is linear in them (R110, R113). -/
theorem hamEncode_xor (a0 a1 a2 a3 b0 b1 b2 b3 : Bool) :
    hamEncode (a0 ^^ b0) (a1 ^^ b1) (a2 ^^ b2) (a3 ^^ b3) =
      List.zipWith (· ^^ ·) (hamEncode a0 a1 a2 a3) (hamEncode b0 b1 b2 b3) := by
  have parity : ∀ x y z x' y' z' : Bool,
      ((x ^^ x') ^^ (y ^^ y') ^^ (z ^^ z')) = ((x ^^ y ^^ z) ^^ (x' ^^ y' ^^ z')) := by decide
  simp only [hamEncode, parity, List.zipWith_cons_cons, List.zipWith_nil_left]

theorem hamCodeword_xor : hamCodeword (a ^^^ b) = hamCodeword a ^^^ hamCodeword b := by
  simp only [hamCodeword, BitVec.getLsbD_xor, hamEncode_xor]
  exact pack_zipWith_xor rfl

/-- A nonzero block has a codeword of weight at least 3 (R112, R113). -/
theorem three_le_weight_hamCodeword : ∀ x : Nibble, x ≠ 0 →
    3 ≤ (List.range 8).countP (hamCodeword (x.setWidth 8)).getLsbD := by
  decide

/-- The distance of two codewords is the weight of their sum, which is the codeword of the sum of the blocks (R113). -/
theorem three_le_distance_hamCodeword {a b : Byte} (h : a.setWidth 4 ≠ b.setWidth 4) :
    3 ≤ (List.range 8).countP fun j => (hamCodeword a).getLsbD j != (hamCodeword b).getLsbD j := by
  have hsum : (a ^^^ b).setWidth 4 ≠ 0 := by
    rw [BitVec.setWidth_xor]
    exact mt BitVec.xor_eq_zero_iff.mp h
  have hweight := three_le_weight_hamCodeword _ hsum
  rw [hamCodeword_setWidth_four, hamCodeword_xor] at hweight
  simpa only [← BitVec.getLsbD_xor] using hweight

/-- The parity bits p1, p2, p3 make the three checks of R120 zero (R113). -/
theorem syndrome_hamCodeword : syndrome (hamCodeword data) = 0 := by
  obtain ⟨h1, h2, h3, h4, h5, h6, h7⟩ := codeBit_hamCodeword data
  have cancel : ∀ x y z : Bool, ((x ^^ y ^^ z) ^^ x ^^ y ^^ z) = false := by decide
  simp only [syndrome, h1, h2, h3, h4, h5, h6, h7, cancel]
  rfl

end Codeword

/-! ### HAMENC -/

theorem decode_hamenc (len : Nibble) (data : Byte) : decode (commandWord 0x2 len data) = .hamenc len data :=
  decode_encode (i := .hamenc len data) rfl

/-- Settles O17: an accepted HAMENC is one write of a result, whose bit at each codeword position is R110's. -/
theorem hamencComputesCodeword : Obligations.HamencComputesCodeword := by
  intro len data s
  refine ⟨decode_hamenc len data, fun hlen => ?_, fun hlen => ⟨_, execHamenc_of_ne hlen, reject_rejects .length s⟩⟩
  obtain ⟨h1, h2, h3, h4, h5, h6, h7⟩ := codeBit_hamCodeword data
  exact ⟨_, exec_hamenc data hlen s, hamCodeword_getLsbD_seven data, h1, h2, h3, h4, h5, h6, h7, rfl,
    by simp [State.flagsAre], writeResult_syn .., writeResult_crcRem .., writeResult_inputs ..⟩

/-- Settles O18: the distance follows from linearity and the weight of the nonzero codewords. -/
theorem hamencIsLinearWithDistanceThree : Obligations.HamencIsLinearWithDistanceThree := by
  intro a b s
  exact ⟨_, _, _, _, exec_hamenc a rfl s, exec_hamenc b rfl s, exec_hamenc (a ^^^ b) rfl s, hamCodeword_xor a b,
    three_le_distance_hamCodeword, execHamdec_of_eq rfl, syndrome_hamCodeword a⟩

end Sys2Proof.Machine

/-! PROOFS. The Hamming decoder: the checks of a received word, and what HAMDEC makes of a codeword with errors. The
syndrome is linear and zero on codewords, so it is the syndrome of the error word alone; the delivered data is wrong by
what the correction leaves of the error word (R120 to R124). -/

namespace Sys2Proof.Machine

/-! ### The syndrome -/

section Syndrome
variable (w v : Byte)

/-- The three checks are the bits of the syndrome, s1 lowest (R120). -/
theorem syndrome_getLsbD :
    (syndrome w).getLsbD 0 = (codeBit w 1 ^^ codeBit w 3 ^^ codeBit w 5 ^^ codeBit w 7) ∧
    (syndrome w).getLsbD 1 = (codeBit w 2 ^^ codeBit w 3 ^^ codeBit w 6 ^^ codeBit w 7) ∧
    (syndrome w).getLsbD 2 = (codeBit w 4 ^^ codeBit w 5 ^^ codeBit w 6 ^^ codeBit w 7) := by
  have bits : ∀ s1 s2 s3 : Bool, let y := BitVec.ofBool s3 ++ BitVec.ofBool s2 ++ BitVec.ofBool s1
      y.getLsbD 0 = s1 ∧ y.getLsbD 1 = s2 ∧ y.getLsbD 2 = s3 := by decide
  exact bits _ _ _

/-- The number in a 3-bit field is the weighted sum of its bits (R120). -/
theorem toNat_eq_of_bits : ∀ y : BitVec 3,
    y.toNat = (y.getLsbD 0).toNat + 2 * (y.getLsbD 1).toNat + 4 * (y.getLsbD 2).toNat := by
  decide

theorem codeBit_xor (p : Nat) : codeBit (w ^^^ v) p = (codeBit w p ^^ codeBit v p) := BitVec.getLsbD_xor

/-- Each check is an exclusive or of received bits, so the syndrome is linear in the word (R120). -/
theorem syndrome_xor : syndrome (w ^^^ v) = syndrome w ^^^ syndrome v := by
  have check : ∀ a b c d a' b' c' d' : Bool,
      ((a ^^ a') ^^ (b ^^ b') ^^ (c ^^ c') ^^ (d ^^ d')) = ((a ^^ b ^^ c ^^ d) ^^ (a' ^^ b' ^^ c' ^^ d')) := by decide
  have append : ∀ x y z x' y' z' : Bool,
      BitVec.ofBool (z ^^ z') ++ BitVec.ofBool (y ^^ y') ++ BitVec.ofBool (x ^^ x') =
        (BitVec.ofBool z ++ BitVec.ofBool y ++ BitVec.ofBool x) ^^^
          (BitVec.ofBool z' ++ BitVec.ofBool y' ++ BitVec.ofBool x') := by decide
  simp only [syndrome, codeBit_xor, check]
  exact append ..

end Syndrome

/-! ### The error words -/

/-- The word of a single error: exclusive or with it flips the bit c_p (R122). -/
def flipMask (p : Nat) : Byte := 1#8 <<< (7 - p)

section ErrorWords
variable {p q : Nat}

theorem codeBit_flipMask (hp : p ≤ 7) (hq : q ≤ 7) : codeBit (flipMask p) q = decide (p = q) := by
  rw [codeBit, flipMask, BitVec.getLsbD_shiftLeft, BitVec.getLsbD_one, Bool.eq_iff_iff]
  simp
  omega

/-- Column p of the parity-check matrix is the binary value of p (R120). -/
theorem syndrome_flipMask_toNat (hp : p ≤ 7) : (syndrome (flipMask p)).toNat = p := by
  have columns : ∀ p < 8, (syndrome (flipMask p)).toNat = p := by decide
  exact columns p (by omega)

end ErrorWords

/-! ### Correction -/

section Correction
variable (data e : Byte)

/-- With the named position flipped, the word passes every check of R120. -/
theorem checks_correctedBit (w : Byte) :
    (correctedBit w 1 ^^ correctedBit w 3 ^^ correctedBit w 5 ^^ correctedBit w 7) = false ∧
    (correctedBit w 2 ^^ correctedBit w 3 ^^ correctedBit w 6 ^^ correctedBit w 7) = false ∧
    (correctedBit w 4 ^^ correctedBit w 5 ^^ correctedBit w 6 ^^ correctedBit w 7) = false := by
  have named : ∀ y : BitVec 3, let f := fun p : Nat => decide (y.toNat = p)
      y.getLsbD 0 = (f 1 ^^ f 3 ^^ f 5 ^^ f 7) ∧ y.getLsbD 1 = (f 2 ^^ f 3 ^^ f 6 ^^ f 7) ∧
      y.getLsbD 2 = (f 4 ^^ f 5 ^^ f 6 ^^ f 7) := by decide
  have cancel : ∀ a b c d a' b' c' d' : Bool, (a ^^ b ^^ c ^^ d) = (a' ^^ b' ^^ c' ^^ d') →
      ((a ^^ a') ^^ (b ^^ b') ^^ (c ^^ c') ^^ (d ^^ d')) = false := by decide
  obtain ⟨h1, h2, h3⟩ := syndrome_getLsbD w
  obtain ⟨n1, n2, n3⟩ := named (syndrome w)
  exact ⟨cancel _ _ _ _ _ _ _ _ (h1.symm.trans n1), cancel _ _ _ _ _ _ _ _ (h2.symm.trans n2),
    cancel _ _ _ _ _ _ _ _ (h3.symm.trans n3)⟩

/-- RDATA[3:0] holds the corrected bits c'3, c'5, c'6, c'7 (R121). -/
theorem pack_hamDecode_getLsbD (w : Byte) :
    (pack (hamDecode w)).getLsbD 3 = correctedBit w 3 ∧ (pack (hamDecode w)).getLsbD 2 = correctedBit w 5 ∧
    (pack (hamDecode w)).getLsbD 1 = correctedBit w 6 ∧ (pack (hamDecode w)).getLsbD 0 = correctedBit w 7 := by
  have bit (i : Nat) (hi : i < 4) := pack_getLsbD_of_lt (s := hamDecode w) (by simp [hamDecode]) hi
  exact ⟨bit 0 (by decide), bit 1 (by decide), bit 2 (by decide), bit 3 (by decide)⟩

/-- The corrected word passes the checks, so its parity bits are 0 when its data bits are (R120, R121). -/
theorem pack_hamDecode_eq_zero_iff :
    pack (hamDecode e) = 0 ↔ ∀ p, 1 ≤ p → p ≤ 7 → correctedBit e p = false := by
  constructor
  · intro h
    obtain ⟨h3, h5, h6, h7⟩ := pack_hamDecode_getLsbD e
    obtain ⟨h1, h2, h4⟩ := checks_correctedBit e
    simp only [h, BitVec.ofNat_eq_ofNat, BitVec.getLsbD_zero] at h3 h5 h6 h7
    simp only [← h3, ← h5, ← h6, ← h7, Bool.xor_false] at h1 h2 h4
    intro p hp hp7
    interval_cases p
    exacts [h1, h2, h3.symm, h4, h5.symm, h6.symm, h7.symm]
  · intro h
    have zero : hamDecode e = [false, false, false, false] := by simp [hamDecode, h]
    rw [zero]
    rfl

/-- The data bits d0 to d3 of a block, packed, are DATA[3:0] (R111). -/
theorem pack_dataBits :
    pack [data.getLsbD 3, data.getLsbD 2, data.getLsbD 1, data.getLsbD 0] = data &&& 0x0F := by
  have mask : ∀ j < 8, (0x0F : Byte).getLsbD j = decide (j < 4) := by decide
  apply BitVec.eq_of_getLsbD_eq
  intro j hj
  rw [BitVec.getLsbD_and, mask j hj, Bool.and_comm]
  exact pack_unpack_getLsbD data 4 j

/-- A received word has the syndrome of its error word (R122). -/
theorem syndrome_hamCodeword_xor : syndrome (hamCodeword data ^^^ e) = syndrome e := by
  rw [syndrome_xor, syndrome_hamCodeword]
  exact BitVec.zero_xor

theorem correctedBit_hamCodeword_xor (p : Nat) :
    correctedBit (hamCodeword data ^^^ e) p = (codeBit (hamCodeword data) p ^^ correctedBit e p) := by
  rw [correctedBit, syndrome_hamCodeword_xor, codeBit_xor, Bool.xor_assoc, correctedBit]

/-- HAMDEC delivers the block and, added to it, the data bits of the error word after its correction (R122, R123). -/
theorem pack_hamDecode_hamCodeword_xor :
    pack (hamDecode (hamCodeword data ^^^ e)) = (data &&& 0x0F) ^^^ pack (hamDecode e) := by
  obtain ⟨-, -, h3, -, h5, h6, h7⟩ := codeBit_hamCodeword data
  rw [← pack_dataBits, ← pack_zipWith_xor (by rfl)]
  simp only [hamDecode, correctedBit_hamCodeword_xor, h3, h5, h6, h7, List.zipWith_cons_cons, List.zipWith_nil_left]

/-- The data is right exactly when the error word is at most the one position its syndrome names (R122, R123). -/
theorem pack_hamDecode_hamCodeword_xor_eq_iff :
    pack (hamDecode (hamCodeword data ^^^ e)) = data &&& 0x0F ↔
      ∀ p, 1 ≤ p → p ≤ 7 → codeBit e p = decide ((syndrome e).toNat = p) := by
  rw [pack_hamDecode_hamCodeword_xor, xor_left_eq_self_iff, pack_hamDecode_eq_zero_iff]
  simp only [correctedBit, bne_eq_false_iff_eq]

/-- One position is corrected, so an error word with two leaves the data wrong (R123). -/
theorem pack_hamDecode_hamCodeword_xor_ne {e : Byte} {a b : Nat} (ha : 1 ≤ a) (hab : a < b) (hb : b ≤ 7)
    (hea : codeBit e a = true) (heb : codeBit e b = true) :
    pack (hamDecode (hamCodeword data ^^^ e)) ≠ data &&& 0x0F := by
  rw [Ne, pack_hamDecode_hamCodeword_xor_eq_iff]
  intro h
  have hsyna := of_decide_eq_true ((h a ha (by omega)).symm.trans hea)
  have hsynb := of_decide_eq_true ((h b (by omega) hb).symm.trans heb)
  omega

end Correction

/-! ### HAMDEC -/

section Hamdec
variable {len : Nibble} (data w : Byte) (s : State)

theorem decode_hamdec (len : Nibble) : decode (commandWord 0x3 len data) = .hamdec len data :=
  decode_encode (i := .hamdec len data) rfl

/-- An accepted HAMDEC delivers the corrected data and the syndrome, and Z tells whether that is 0 (R121). -/
theorem exec_hamdec (h : len.toNat = 7) : ∃ t, exec (.hamdec len w) s = .next t ∧
    t.regs.syn = syndrome w ∧ t.regs.rdata = pack (hamDecode w) ∧ t.regs.rlen = 4 ∧
    t.flagsAre true false (decide ((syndrome w).toNat = 0)) false ∧
    t.regs.crcRem = s.regs.crcRem ∧ t.inputs = s.inputs := by
  have hzero : syndrome w = 0#3 ↔ (syndrome w).toNat = 0 := BitVec.toNat_eq
  exact ⟨_, (Executes.hamdec h).exec_eq, rfl, rfl, rfl, by simp [State.flagsAre, hzero], rfl, rfl⟩

/-- HAMDEC of a codeword with an error word added: SYN and the flags tell of the error word alone (R122 to R124). -/
theorem exec_hamdec_hamCodeword_xor (e : Byte) : ∃ t, exec (.hamdec 7 (hamCodeword data ^^^ e)) s = .next t ∧
    t.regs.syn.toNat = (syndrome e).toNat ∧ t.regs.rdata = pack (hamDecode (hamCodeword data ^^^ e)) ∧
    t.flagsAre true false (decide ((syndrome e).toNat = 0)) false := by
  obtain ⟨t, hexec, hsyn, hdata, -, hflags, -⟩ := exec_hamdec (hamCodeword data ^^^ e) s (len := 7) rfl
  rw [syndrome_hamCodeword_xor] at hsyn hflags
  exact ⟨t, hexec, congrArg _ hsyn, hdata, hflags⟩

/-- No error: the syndrome names no position and the data is the block (R122). -/
theorem exec_hamdec_hamCodeword : ∃ t, exec (.hamdec 7 (hamCodeword data)) s = .next t ∧
    t.regs.syn = 0 ∧ t.regs.rdata = data &&& 0x0F := by
  obtain ⟨t, hexec, hsyn, hdata, -⟩ := exec_hamdec_hamCodeword_xor data s 0#8
  have hright := (pack_hamDecode_hamCodeword_xor_eq_iff data 0#8).mpr (by decide)
  rw [BitVec.xor_zero] at hexec
  exact ⟨t, hexec, BitVec.eq_of_toNat_eq hsyn, hdata.trans hright⟩

variable {a b c : Nat}

/-- One error: the error word is the one position its syndrome names (R122). -/
theorem exec_hamdec_one_flip (ha : a ≤ 7) : ∃ t, exec (.hamdec 7 (hamCodeword data ^^^ flipMask a)) s = .next t ∧
    t.regs.syn.toNat = a ∧ t.regs.rdata = data &&& 0x0F := by
  obtain ⟨t, hexec, hsyn, hdata, -⟩ := exec_hamdec_hamCodeword_xor data s (flipMask a)
  have hnamed := syndrome_flipMask_toNat ha
  have hright := (pack_hamDecode_hamCodeword_xor_eq_iff data (flipMask a)).mpr fun p _ hp => by
    rw [hnamed, codeBit_flipMask ha hp]
  exact ⟨t, hexec, hsyn.trans hnamed, hdata.trans hright⟩

/-- Two errors: SYN names a third position, and the data is wrong without a flag for it (R123). -/
theorem exec_hamdec_two_flips (ha : 1 ≤ a) (hab : a < b) (hb : b ≤ 7) :
    ∃ t, exec (.hamdec 7 (hamCodeword data ^^^ flipMask a ^^^ flipMask b)) s = .next t ∧
      t.regs.syn.toNat = a ^^^ b ∧ t.regs.syn.toNat ≠ 0 ∧ t.regs.syn.toNat ≠ a ∧ t.regs.syn.toNat ≠ b ∧
      t.regs.rdata ≠ data &&& 0x0F ∧ t.flagsAre true false false false := by
  have ha7 : a ≤ 7 := by omega
  obtain ⟨t, hexec, hsyn, hdata, hflags⟩ := exec_hamdec_hamCodeword_xor data s (flipMask a ^^^ flipMask b)
  have hxor : (syndrome (flipMask a ^^^ flipMask b)).toNat = a ^^^ b := by
    rw [syndrome_xor, BitVec.toNat_xor, syndrome_flipMask_toNat ha7, syndrome_flipMask_toNat hb]
  have hne : a ^^^ b ≠ 0 := Nat.xor_ne_zero_iff.mpr hab.ne
  have hnea : a ^^^ b ≠ a := mt xor_left_eq_self_iff.mp (by omega)
  have hneb : a ^^^ b ≠ b := mt xor_right_eq_self_iff.mp (by omega)
  have hwrong := pack_hamDecode_hamCodeword_xor_ne (e := flipMask a ^^^ flipMask b) data ha hab hb
    (by simp [codeBit_xor, codeBit_flipMask, ha7, hb, hab.ne'])
    (by simp [codeBit_xor, codeBit_flipMask, ha7, hb, hab.ne])
  rw [hxor] at hsyn hflags
  rw [← BitVec.xor_assoc] at hexec
  exact ⟨t, hexec, hsyn, hsyn ▸ hne, hsyn ▸ hnea, hsyn ▸ hneb, hdata ▸ hwrong, decide_eq_false hne ▸ hflags⟩

/-- Three errors: SYN is 0 when they are the support of a codeword, and the data is wrong in every case (R123). -/
theorem exec_hamdec_three_flips (ha : 1 ≤ a) (hab : a < b) (hbc : b < c) (hc : c ≤ 7) :
    ∃ t, exec (.hamdec 7 (hamCodeword data ^^^ flipMask a ^^^ flipMask b ^^^ flipMask c)) s = .next t ∧
      t.regs.syn.toNat = a ^^^ b ^^^ c ∧ t.regs.rdata ≠ data &&& 0x0F ∧
      t.flagsAre true false (decide (a ^^^ b ^^^ c = 0)) false := by
  have hb7 : b ≤ 7 := by omega
  have ha7 : a ≤ 7 := by omega
  have hac := hab.trans hbc
  obtain ⟨t, hexec, hsyn, hdata, hflags⟩ :=
    exec_hamdec_hamCodeword_xor data s (flipMask a ^^^ flipMask b ^^^ flipMask c)
  have hxor : (syndrome (flipMask a ^^^ flipMask b ^^^ flipMask c)).toNat = a ^^^ b ^^^ c := by
    rw [syndrome_xor, syndrome_xor, BitVec.toNat_xor, BitVec.toNat_xor, syndrome_flipMask_toNat ha7,
      syndrome_flipMask_toNat hb7, syndrome_flipMask_toNat hc]
  have hwrong := pack_hamDecode_hamCodeword_xor_ne (e := flipMask a ^^^ flipMask b ^^^ flipMask c) data ha hab hb7
    (by simp [codeBit_xor, codeBit_flipMask, ha7, hb7, hc, hab.ne', hac.ne'])
    (by simp [codeBit_xor, codeBit_flipMask, ha7, hb7, hc, hab.ne, hbc.ne'])
  rw [hxor] at hsyn hflags
  rw [← BitVec.xor_assoc, ← BitVec.xor_assoc] at hexec
  exact ⟨t, hexec, hsyn, hdata ▸ hwrong, hflags⟩

end Hamdec

/-- Settles O19: an accepted HAMDEC is one write of a result and of SYN, whose bits are R120's checks and R121's
corrected bits. -/
theorem hamdecCorrectsNamedPosition : Obligations.HamdecCorrectsNamedPosition := by
  intro len data s c s1 s2 s3 syn
  refine ⟨decode_hamdec data len, fun hlen => ?_, fun hlen => ⟨_, execHamdec_of_ne hlen, reject_rejects .length s⟩⟩
  obtain ⟨t, hexec, hregsyn, hdata, hrlen, hflags, hcrc, hinputs⟩ := exec_hamdec data s hlen
  obtain ⟨h1, h2, h3⟩ := syndrome_getLsbD data
  have hsyn : (syndrome data).toNat = syn := by rw [toNat_eq_of_bits, h1, h2, h3]; rfl
  have hcorrected (p : Nat) : correctedBit data p = (c p ^^ decide (syn = p)) := hsyn ▸ rfl
  obtain ⟨hd3, hd2, hd1, hd0⟩ := pack_hamDecode_getLsbD data
  rw [← hdata, hcorrected] at hd3 hd2 hd1 hd0
  exact ⟨t, hexec, hregsyn ▸ hsyn, hdata ▸ pack_lt (hamDecode data), hd3, hd2, hd1, hd0, hrlen, hsyn ▸ hflags, hcrc,
    hinputs⟩

/-- Settles O20, without an error and with one. -/
theorem hamdecCorrectsSingleErrors : Obligations.HamdecCorrectsSingleErrors := fun data s =>
  ⟨_, exec_hamenc data rfl s, exec_hamdec_hamCodeword data _, fun _ _ hp => exec_hamdec_one_flip data _ hp⟩

/-- Settles O21: SYN is the exclusive or of the positions by linearity, and one correction does not undo two flips. -/
theorem hamdecMiscorrectsMultipleErrors : Obligations.HamdecMiscorrectsMultipleErrors := fun data s =>
  ⟨_, exec_hamenc data rfl s, fun _ _ ha hab hb => exec_hamdec_two_flips data _ ha hab hb,
    fun _ _ _ ha hab hbc hc => exec_hamdec_three_flips data _ ha hab hbc hc⟩

end Sys2Proof.Machine

/-! PROOFS. The CRC generator: the divider as polynomial division by G, the host's CRC sequences as one run of the divider
over the whole string, and what the check of a codeword says (R130 to R140). -/

namespace Sys2Proof.Machine

/-! ### The division step on the register -/

section Register
variable {r q : Nibble}

@[simp] theorem crcShift_nil (r : Nibble) : crcShift r [] = r := rfl

theorem crcShift_cons (r : Nibble) (b : Bool) (s : Bits) : crcShift r (b :: s) = crcShift (crcStep r b) s := rfl

/-- Each bit of the register after a step: the bit below it, and G's tail at bits 0 and 1 (R131). -/
theorem crcStep_getLsbD : ∀ (r : Nibble) (b : Bool),
    (crcStep r b).getLsbD 0 = (b ^^ r.getLsbD 3) ∧ (crcStep r b).getLsbD 1 = (r.getLsbD 0 ^^ r.getLsbD 3) ∧
    (crcStep r b).getLsbD 2 = r.getLsbD 1 ∧ (crcStep r b).getLsbD 3 = r.getLsbD 2 := by
  decide

/-- The datapath of a step on numbers (R131). -/
theorem crcStep_toNat : ∀ (r : Nibble) (b : Bool),
    (crcStep r b).toNat = (2 * r.toNat + b.toNat) % 16 ^^^ (if r.getLsbD 3 then 0b0011 else 0b0000) := by
  decide

/-- A step loses no remainder: two registers that it makes equal were equal (R131). -/
theorem crcStep_inj {b : Bool} (h : crcStep r b = crcStep q b) : r = q := by
  by_contra hne
  apply crcStep_false_ne_zero (r ^^^ q) (mt BitVec.xor_eq_zero_iff.mp hne)
  rw [← Bool.xor_self b, crcStep_xor, h]
  exact BitVec.xor_self

/-- Shifting one string into two registers loses no difference between them. -/
theorem crcShift_inj {s : Bits} (h : crcShift r s = crcShift q s) : r = q := by
  induction s generalizing r q with
  | nil => exact h
  | cons b s ih => exact crcStep_inj (ih h)

theorem crcStep_not_ne : ∀ (r : Nibble) (b : Bool), crcStep r (!b) ≠ crcStep r b := by decide

/-- One inverted bit changes the remainder: its step does, and the later steps keep the difference (R139). -/
theorem crcShift_modify_not_ne {s : Bits} {i : Nat} (hi : i < s.length) :
    crcShift r (s.modify i (!·)) ≠ crcShift r s := by
  induction s generalizing r i with
  | nil => simp at hi
  | cons b s ih =>
    cases i with
    | zero => exact fun h => crcStep_not_ne r b (crcShift_inj h)
    | succ i => exact ih (r := crcStep r b) (by simpa using hi)

end Register

/-! ### The four bits of a remainder -/

/-- The bits of a remainder, the coefficient of x³ first, as CRCFINAL delivers them (R133). -/
def remainderBits (r : Nibble) : Bits := unpack (zext8 r) 4

@[simp] theorem remainderBits_length (r : Nibble) : (remainderBits r).length = 4 := unpack_length _ 4

@[simp] theorem zext8_toNat (r : Nibble) : (zext8 r).toNat = r.toNat := BitVec.toNat_setWidth_of_le (by decide)

theorem zext8_setWidth (r : Nibble) : (zext8 r).setWidth 4 = r := by simp [zext8]

theorem remainderBits_eq_zeros_iff : ∀ r : Nibble, remainderBits r = [false, false, false, false] ↔ r = 0 := by decide

/-- Four bits shifted into the cleared register stand in it unreduced. -/
theorem remainderBits_crcShift_zero : ∀ a b c d : Bool, remainderBits (crcShift 0 [a, b, c, d]) = [a, b, c, d] := by
  decide

/-- A message followed by its own checksum leaves no remainder (R138). -/
theorem crcShift_checksum : ∀ r : Nibble,
    crcShift r (remainderBits (crcShift r [false, false, false, false])) = 0 := by
  decide

/-- Fewer than five bits are not reduced, so they leave remainder 0 only if all are 0 (R140). -/
theorem crcShift_zero_eq_zero_iff {c : Bits} (h : c.length ≤ 4) : decide (crcShift 0 c = 0) = !c.any id := by
  match c, h with
  | [], _ => rfl
  | [a], _ => revert a; decide
  | [a, b], _ => revert a b; decide
  | [a, b, c], _ => revert a b c; decide
  | [a, b, c, d], _ => revert a b c d; decide

/-! ### The source's window division -/

/-- The window holds the register's four bits and the next dividend bit; reducing it is one division step (R131, R135). -/
theorem reduceWindow_remainderBits : ∀ (r : Nibble) (b : Bool),
    reduceWindow (remainderBits r ++ [b]) = remainderBits (crcStep r b) := by
  decide

theorem windowLoop_remainderBits (r : Nibble) (b : Bool) (pending : Bits) :
    windowLoop (remainderBits r ++ [b]) pending = remainderBits (crcShift r (b :: pending)) := by
  induction pending generalizing r b with
  | nil => exact reduceWindow_remainderBits r b
  | cons d pending ih => rw [windowLoop, reduceWindow_remainderBits, ih, crcShift_cons r b]

/-- The window procedure and the divider agree: the first four bits fill the register unreduced, and from then on the
two run in step (R135). -/
theorem windowDivide_eq {d : Bits} (h : 5 ≤ d.length) : windowDivide d = remainderBits (crcShift 0 d) := by
  match d, h with
  | a :: b :: c :: e :: f :: rest, _ =>
    calc windowDivide (a :: b :: c :: e :: f :: rest)
        = windowLoop ([a, b, c, e] ++ [f]) rest := rfl
      _ = windowLoop (remainderBits (crcShift 0 [a, b, c, e]) ++ [f]) rest := by rw [remainderBits_crcShift_zero]
      _ = remainderBits (crcShift 0 (a :: b :: c :: e :: f :: rest)) := windowLoop_remainderBits ..

/-- Settles O28. -/
theorem windowDivisionEqualsDivider : Obligations.WindowDivisionEqualsDivider := fun _ => windowDivide_eq

/-! ### The divider in polynomial terms -/

section Polynomials
open Polynomial

variable {r : Nibble} {p : (ZMod 2)[X]}

/-- A remainder is a value of the register that differs from the polynomial by a multiple of G. -/
theorem isRemainder_iff_exists : IsRemainder r p ↔ ∃ q, polyOfRemainder r + generatorPoly * q = p :=
  ⟨fun h => ⟨p /ₘ generatorPoly, h ▸ modByMonic_add_div p generatorPoly⟩, fun ⟨_, hq⟩ => isRemainder_of_eq hq⟩

theorem isRemainder_self (r : Nibble) : IsRemainder r (polyOfRemainder r) := isRemainder_of_eq (q := 0) (by simp)

theorem polyOfRemainder_zero : polyOfRemainder 0 = 0 := by simp [polyOfRemainder, bitCoeff]

theorem isRemainder_zero : IsRemainder 0 0 := polyOfRemainder_zero ▸ isRemainder_self 0

theorem bitCoeff_eq_zero_iff : ∀ b : Bool, bitCoeff b = 0 ↔ b = false := by decide

theorem polyOfRemainder_coeff (r : Nibble) {j : Nat} (hj : j < 4) :
    (polyOfRemainder r).coeff j = bitCoeff (r.getLsbD j) := by
  simp [polyOfRemainder, coeff_X_pow, hj]

theorem polyOfRemainder_eq_zero_iff : polyOfRemainder r = 0 ↔ r = 0 := by
  refine ⟨fun h => BitVec.eq_of_getLsbD_eq fun j hj => ?_, fun h => h ▸ polyOfRemainder_zero⟩
  have hcoeff : bitCoeff (r.getLsbD j) = 0 := by rw [← polyOfRemainder_coeff r hj, h, coeff_zero]
  simpa [bitCoeff_eq_zero_iff] using hcoeff

/-- The register holds 0 exactly when G divides the polynomial it is the remainder of (R138). -/
theorem IsRemainder.eq_zero_iff (h : IsRemainder r p) : r = 0 ↔ p %ₘ generatorPoly = 0 := by
  rw [← polyOfRemainder_eq_zero_iff, show polyOfRemainder r = p %ₘ generatorPoly from h]

/-- The bit that leaves the register is the quotient's: G times it is what the step subtracts (R131). -/
theorem polyOfRemainder_crcStep (r : Nibble) (b : Bool) :
    polyOfRemainder (crcStep r b) + generatorPoly * C (bitCoeff (r.getLsbD 3)) =
      polyOfRemainder r * X + C (bitCoeff b) := by
  obtain ⟨h0, h1, h2, h3⟩ := crcStep_getLsbD r b
  have htwo : (2 : (ZMod 2)[X]) = 0 := CharTwo.two_eq_zero
  simp only [polyOfRemainder_eq, generatorPoly, h0, h1, h2, h3, bitCoeff_xor, map_add]
  linear_combination (C (bitCoeff (r.getLsbD 3)) * (X + 1)) * htwo

/-- A step takes the remainder of p to that of p·x + b (R131). -/
theorem IsRemainder.shift_bit (h : IsRemainder r p) (b : Bool) :
    IsRemainder (crcStep r b) (p * X + C (bitCoeff b)) := by
  obtain ⟨q, rfl⟩ := isRemainder_iff_exists.mp h
  refine isRemainder_of_eq (q := C (bitCoeff (r.getLsbD 3)) + q * X) ?_
  linear_combination polyOfRemainder_crcStep r b

/-- Shifting in a string of L bits takes the remainder of p to that of p·x^L + poly(s) (R132). -/
theorem IsRemainder.shift (h : IsRemainder r p) (s : Bits) :
    IsRemainder (crcShift r s) (p * X ^ s.length + polyOfBits s) := by
  induction s generalizing r p with
  | nil => simpa [polyOfBits] using h
  | cons b s ih =>
    have hpoly : p * X ^ (b :: s).length + polyOfBits (b :: s) =
        (p * X + C (bitCoeff b)) * X ^ s.length + polyOfBits s := by
      rw [polyOfBits_cons, List.length_cons]
      ring
    exact hpoly ▸ ih (h.shift_bit b)

/-- From the cleared register, the divider computes the remainder of the string's polynomial (R136). -/
theorem isRemainder_crcShift_zero (s : Bits) : IsRemainder (crcShift 0 s) (polyOfBits s) := by
  simpa using isRemainder_zero.shift s

theorem polyOfBits_zeros : polyOfBits [false, false, false, false] = 0 := by
  simp [polyOfBits, Finset.sum_range_succ, bitCoeff]

/-- Four zeros appended are a factor x⁴ (R133). -/
theorem polyOfBits_append_zeros (m : Bits) :
    polyOfBits (m ++ [false, false, false, false]) = polyOfBits m * X ^ 4 := by
  rw [polyOfBits_append, polyOfBits_zeros, add_zero]
  rfl

end Polynomials

/-- Settles O23. -/
theorem crcStepDividesPolynomial : Obligations.CrcStepDividesPolynomial := fun r b s =>
  ⟨crcShift_nil r, crcShift_cons r b s, crcStep_toNat r b, (isRemainder_self r).shift_bit b⟩

/-! ### The four commands -/

/-- The flags after a command that tests for zero (R27). -/
theorem flagsAre_of_statusTested {t : State} {zero : Bool} (h : t.regs.status = statusTested zero) :
    t.flagsAre true false zero false := by
  simp [State.flagsAre, h]

/-- What CRCSHIFT and CRCFINAL deliver besides CRC_REM, and what they leave (R132, R133). -/
theorem deliverRemainder_delivers (r : Nibble) (s : State) :
    (deliverRemainder r s).regs.rdata.toNat = (deliverRemainder r s).regs.crcRem.toNat ∧
    (deliverRemainder r s).regs.rlen = 4 ∧
    (deliverRemainder r s).flagsAre true false (decide ((deliverRemainder r s).regs.crcRem = 0)) false ∧
    (deliverRemainder r s).regs.syn = s.regs.syn ∧ (deliverRemainder r s).inputs = s.inputs :=
  ⟨zext8_toNat r, rfl, flagsAre_of_statusTested rfl, rfl, rfl⟩

/-- Settles O24. -/
theorem crcinitStartsDivision : Obligations.CrcinitStartsDivision := by
  intro len data s
  exact ⟨decode_encode (i := .crcinit len data) rfl, _, Executes.crcinit.exec_eq, by simp [State.flagsAre]⟩

/-- Settles O25: an accepted CRCSHIFT is one delivery of the remainder, a longer operand a rejection. -/
theorem crcshiftDividesOperand : Obligations.CrcshiftDividesOperand := by
  intro len data s bits
  refine ⟨decode_encode (i := .crcshift len data) rfl, fun hlen => ?_,
    fun hlen => ⟨_, execCrcshift_of_lt hlen, reject_rejects .length s⟩⟩
  have hrem := (isRemainder_self s.regs.crcRem).shift (operand len data)
  rw [operand_length] at hrem
  exact ⟨_, (Executes.crcshift hlen).exec_eq, rfl, hrem, deliverRemainder_delivers _ s⟩

/-- Settles O26. -/
theorem crcfinalDeliversChecksum : Obligations.CrcfinalDeliversChecksum := by
  intro len data s
  have hrem := (isRemainder_self s.regs.crcRem).shift [false, false, false, false]
  rw [polyOfBits_zeros, add_zero] at hrem
  exact ⟨decode_encode (i := .crcfinal len data) rfl, _, Executes.crcfinal.exec_eq, rfl, hrem,
    deliverRemainder_delivers _ s⟩

theorem pack_singleton_toNat : ∀ b : Bool, (pack [b]).toNat = if b then 1 else 0 := by decide

theorem pack_singleton_getLsbD : ∀ b : Bool, (pack [b]).getLsbD 0 = b := by decide

/-- Settles O27. -/
theorem crccheckDeliversVerdict : Obligations.CrccheckDeliversVerdict := by
  intro len data s
  have hverdict : decide (s.regs.crcRem = 0) = decide (s.regs.crcRem.toNat = 0) :=
    decide_eq_decide.mpr BitVec.toNat_inj.symm
  refine ⟨decode_encode (i := .crccheck len data) rfl, _, Executes.crccheck.exec_eq, ?_, rfl,
    hverdict ▸ flagsAre_of_statusTested rfl, rfl, rfl, rfl⟩
  rw [writeResult_rdata, pack_singleton_toNat, hverdict]
  simp only [decide_eq_true_eq]

/-! ### The stream of shifted bits -/

section Stream
variable {i : Instr} {s t : State}

/-- A rejected command shifts nothing in (R132, R136). -/
theorem streamBits_of_rejected {kind : RejectKind} (h : i.rejection = some kind) : streamBits i = [] := by
  cases i with
  | crcshift len data =>
    obtain ⟨hlen, -⟩ : 8 < len.toNat ∧ .length = kind := by simpa [Instr.rejection] using h
    exact if_neg (Nat.not_le.mpr hlen)
  | _ => rfl

/-- A command other than CRCINIT and CRCFINAL does to CRC_REM what its stream bits do, shifted in (R136). -/
theorem Executes.crcRem_eq (h : Executes i s t) (hi : breaksStream i = false) :
    t.regs.crcRem = crcShift s.regs.crcRem (streamBits i) := by
  cases h with
  | rejected hr => rw [streamBits_of_rejected hr]; rfl
  | crcshift hlen => rw [streamBits, if_pos hlen, deliverRemainder_crcRem]
  | crcinit => cases hi
  | crcfinal => cases hi
  | _ => simp [streamBits]

/-- Issuing a command and then others is executing the command and issuing the others from where it leads. -/
theorem issueAll_cons {w : Word} (h : exec (decode w) s = .next t) (ws : List Word) :
    issueAll (w :: ws) s = issueAll ws t := by
  simp only [issueAll, issue_eq_exec, h]

theorem issueAll_singleton {w : Word} (h : exec (decode w) s = .next t) : issueAll [w] s = .next t := issueAll_cons h []

/-- The canonical words of the commands without an operand (R68). -/
theorem exec_plainWord_crcinit (s : State) :
    exec (decode (plainWord 0x4)) s = .next ((s.writeCrcRem 0).writeStatus (statusInit s.regs.status)) :=
  (Executes.crcinit (len := 0) (data := 0)).exec_eq

theorem exec_plainWord_crcfinal (s : State) : exec (decode (plainWord 0x6)) s =
    .next (deliverRemainder (crcShift s.regs.crcRem [false, false, false, false]) s) :=
  (Executes.crcfinal (len := 0) (data := 0)).exec_eq

theorem exec_plainWord_crccheck (s : State) : exec (decode (plainWord 0x7)) s =
    .next (s.writeResult (pack [decide (s.regs.crcRem = 0)]) 1 (statusTested (decide (s.regs.crcRem = 0)))) :=
  (Executes.crccheck (len := 0) (data := 0)).exec_eq

/-- A sequence of commands that do not break the stream shifts in the concatenation of their stream bits (R136). -/
theorem issueAll_stream (cs : List Instr) (hcs : ∀ i ∈ cs, i.wellFormed = true ∧ breaksStream i = false) (s : State) :
    ∃ t, issueAll (cs.map encode) s = .next t ∧ t.regs.crcRem = crcShift s.regs.crcRem (cs.flatMap streamBits) := by
  induction cs generalizing s with
  | nil => exact ⟨s, rfl, rfl⟩
  | cons i cs ih =>
    obtain ⟨⟨hwf, hstream⟩, hrest⟩ := List.forall_mem_cons.mp hcs
    obtain ⟨u, hu⟩ := executes_total i s
    obtain ⟨t, ht, hrem⟩ := ih hrest u
    have hexec : exec (decode (encode i)) s = .next u := by rw [decode_encode hwf, hu.exec_eq]
    refine ⟨t, (issueAll_cons hexec _).trans ht, ?_⟩
    rw [hrem, hu.crcRem_eq hstream, ← crcShift_append, List.flatMap_cons]

/-- CRCINIT first makes it the division of that concatenation alone (R130, R136). -/
theorem issueAll_crcinit_stream (cs : List Instr) (hcs : ∀ i ∈ cs, i.wellFormed = true ∧ breaksStream i = false)
    (s : State) : ∃ t, issueAll (plainWord 0x4 :: cs.map encode) s = .next t ∧
      t.regs.crcRem = crcShift 0 (cs.flatMap streamBits) := by
  obtain ⟨t, ht, hrem⟩ := issueAll_stream cs hcs ((s.writeCrcRem 0).writeStatus (statusInit s.regs.status))
  exact ⟨t, (issueAll_cons (exec_plainWord_crcinit s) _).trans ht, hrem⟩

end Stream

/-- Settles O29: CRCINIT and a reset step both clear CRC_REM, and the rest is `issueAll_stream`. -/
theorem crcStreamIsRemainder : Obligations.CrcStreamIsRemainder := by
  intro cs s hcs bits
  obtain ⟨t, ht, hrem⟩ := issueAll_crcinit_stream cs hcs s
  obtain ⟨u, hu, hrem'⟩ := issueAll_stream cs hcs s.resetRegs
  exact ⟨⟨t, ht, hrem, hrem ▸ isRemainder_crcShift_zero bits⟩,
    ⟨_, u, step_of_rst rfl, hu, hrem', hrem' ▸ isRemainder_crcShift_zero bits⟩⟩

/-! ### The pseudo-commands CRCSHIFTS, CRCGEN and CRCVERIFY -/

section Sequences
variable (m c : Bits) (s : State)

/-- The CRCSHIFT command of a chunk (R68, R69). -/
def chunkCommand (chunk : Bits) : Instr := .crcshift (BitVec.ofNat 4 chunk.length) (pack chunk)

theorem crcshiftsWords_eq : crcshiftsWords m = ((crcChunks m).map chunkCommand).map encode := by
  rw [List.map_map]
  rfl

theorem streamBits_chunkCommand {chunk : Bits} (h : chunk.length ≤ 8) : streamBits (chunkCommand chunk) = chunk := by
  rw [chunkCommand, streamBits, operand_length_toNat h, if_pos h, operand_pack h]

/-- The chunks of CRCSHIFTS, joined, are the string (R69). -/
theorem crcChunks_flatten : (crcChunks m).flatten = m := by
  rw [crcChunks, pieces_flatten, List.take_of_length_le]
  omega

theorem crcChunks_flatMap_streamBits : ((crcChunks m).map chunkCommand).flatMap streamBits = m := by
  have hchunk : ∀ chunk ∈ crcChunks m, streamBits (chunkCommand chunk) = id chunk :=
    fun _ h => streamBits_chunkCommand (pieces_length_le h)
  rw [List.flatMap_map, List.flatMap_congr hchunk, List.flatMap_id, crcChunks_flatten]

/-- CRCINIT and CRCSHIFTS leave the string's remainder, wherever the chunks cut it (R69, R136). -/
theorem issueAll_crcinit_crcshifts : ∃ t, issueAll (plainWord 0x4 :: crcshiftsWords m) s = .next t ∧
    t.regs.crcRem = crcShift 0 m := by
  have hcs : ∀ i ∈ (crcChunks m).map chunkCommand, i.wellFormed = true ∧ breaksStream i = false :=
    List.forall_mem_map.mpr fun _ _ => ⟨rfl, rfl⟩
  obtain ⟨t, ht, hrem⟩ := issueAll_crcinit_stream _ hcs s
  rw [crcChunks_flatMap_streamBits] at hrem
  exact ⟨t, crcshiftsWords_eq m ▸ ht, hrem⟩

/-- The checksum of a message: the remainder of the message with four zeros appended (R137). -/
def checksum (m : Bits) : Nibble := crcShift 0 (m ++ [false, false, false, false])

/-- CRCGEN ends with the delivery of the message's checksum (R70, R137). -/
theorem issueAll_crcgenWords : ∃ t, issueAll (crcgenWords m) s = .next (deliverRemainder (checksum m) t) := by
  obtain ⟨t, ht, hrem⟩ := issueAll_crcinit_crcshifts m s
  refine ⟨t, (issueAll_append ht).trans (issueAll_singleton ?_)⟩
  rw [checksum, crcShift_append, ← hrem]
  exact exec_plainWord_crcfinal t

/-- CRCVERIFY delivers the verdict whether the string leaves remainder 0 (R70, R138). -/
theorem issueAll_crcverifyWords : ∃ t, issueAll (crcverifyWords c) s = .next t ∧
    t.regs.rdata = pack [decide (crcShift 0 c = 0)] := by
  obtain ⟨t, ht, hrem⟩ := issueAll_crcinit_crcshifts c s
  rw [← hrem]
  exact ⟨_, (issueAll_append ht).trans (issueAll_singleton (exec_plainWord_crccheck t)), rfl⟩

/-- crcCheck answers that verdict, as RDATA[0] holds it (R155). -/
theorem crcCheck_eq : ∃ t, crcCheck c s = .next (decide (crcShift 0 c = 0), t) ∧
    t.regs.rdata.getLsbD 0 = decide (crcShift 0 c = 0) := by
  obtain ⟨t, ht, hdata⟩ := issueAll_crcverifyWords c s
  have hbit : t.regs.rdata.getLsbD 0 = decide (crcShift 0 c = 0) := by rw [hdata, pack_singleton_getLsbD]
  exact ⟨t, by simp only [crcCheck, ht, State.outputs, hbit], hbit⟩

/-- crcEncode answers the message and the four bits of its checksum (R154). -/
theorem crcEncode_eq : ∃ t, crcEncode m s = .next (m ++ remainderBits (checksum m), t) ∧
    t.regs.rdata = zext8 (checksum m) := by
  obtain ⟨t, ht⟩ := issueAll_crcgenWords m s
  refine ⟨deliverRemainder (checksum m) t, ?_, rfl⟩
  simp only [crcEncode, ht]
  rfl

/-- Every codeword leaves remainder 0 (R138). -/
theorem crcShift_codeword : crcShift 0 (m ++ remainderBits (checksum m)) = 0 := by
  rw [checksum, crcShift_append, crcShift_append, crcShift_checksum]

end Sequences

/-- A position inside the string inverts the bit there (R156). -/
theorem flipBit_of_le {c : Bits} {p : Nat} (hp : 1 ≤ p) (hle : p ≤ c.length) :
    flipBit c (some p) = c.modify (p - 1) (!·) := by
  have hinside : ¬ ((p : Int) < 1 ∨ (c.length : Int) < p) := by omega
  have hindex : ((p : Int) - 1).toNat = p - 1 := by omega
  simp only [flipBit, if_neg hinside, hindex]

/-- Settles O30: the checksum is the remainder of the augmented message, and the window division of a dividend of at least
5 bits gives the same. -/
theorem crcgenLeavesChecksum : Obligations.CrcgenLeavesChecksum := by
  intro m s
  obtain ⟨t, ht⟩ := issueAll_crcgenWords m s
  have hrem : IsRemainder (checksum m) _ := isRemainder_crcShift_zero (m ++ [false, false, false, false])
  refine ⟨_, ht, polyOfBits_append_zeros m ▸ hrem, hrem, zext8_setWidth _, rfl, fun hm => ?_⟩
  have hlength : 5 ≤ (m ++ [false, false, false, false]).length := by
    rw [List.length_append]
    exact Nat.add_le_add_right (List.length_pos_of_ne_nil hm) 4
  exact (windowDivide_eq hlength).symm

/-- Settles O31: the verdict is that of the divider, which holds 0 exactly for the multiples of G, and a codeword's
remainder is 0. -/
theorem crcverifyAcceptsCodewords : Obligations.CrcverifyAcceptsCodewords := by
  refine ⟨fun c s => ?_, fun m s => ?_⟩
  · obtain ⟨t, hcheck, hbit⟩ := crcCheck_eq c s
    refine ⟨_, t, hcheck, hbit, ?_, fun hlen => ?_⟩
    · rw [decide_eq_true_iff, (isRemainder_crcShift_zero c).eq_zero_iff]
    · rw [decide_eq_true_iff, windowDivide_eq hlen, remainderBits_eq_zeros_iff]
  · obtain ⟨t, hencode, hdata⟩ := crcEncode_eq m s
    obtain ⟨u, hcheck, -⟩ := crcCheck_eq (m ++ remainderBits (checksum m)) t
    rw [crcShift_codeword] at hcheck
    exact ⟨_, t, u, hencode, by rw [hdata, remainderBits], hcheck⟩

/-- Settles O32: the codeword's remainder is 0, and one inverted bit changes it. -/
theorem crcverifyDetectsSingleFlips : Obligations.CrcverifyDetectsSingleFlips := by
  intro m s
  obtain ⟨t, hencode, -⟩ := crcEncode_eq m s
  refine ⟨_, t, hencode, by simp, fun p hp hle => ?_⟩
  obtain ⟨u, hcheck, -⟩ := crcCheck_eq (flipBit (m ++ remainderBits (checksum m)) (some p)) t
  have hne := crcShift_modify_not_ne (r := 0) (Nat.sub_one_lt_of_le hp hle)
  rw [crcShift_codeword, ← flipBit_of_le hp hle] at hne
  exact ⟨u, by rw [hcheck, decide_eq_false hne]⟩

/-- Settles O33: the checksum of the empty message is the remainder of 0000, and a string of at most 4 bits is its own
remainder. -/
theorem crcShortInputs : Obligations.CrcShortInputs := by
  refine fun s => ⟨?_, fun c hc => ?_⟩
  · obtain ⟨t, hencode, -⟩ := crcEncode_eq [] s
    exact ⟨t, hencode⟩
  · obtain ⟨t, hcheck, -⟩ := crcCheck_eq c s
    exact ⟨t, by rw [hcheck, crcShift_zero_eq_zero_iff hc]⟩

end Sys2Proof.Machine

/-! PROOFS. The host's block framing: a string cut into operands, one command for each, and what the host reads joined
again; repetitionDecode and the Hamming message functions are two uses of it (R150 to R153). -/

namespace Sys2Proof.Machine

/-! ### Cutting a string into operands -/

section Pieces
variable {n : Nat}

/-- One piece more is the next one at the front. -/
theorem pieces_succ_head (n k : Nat) (s : Bits) : pieces n (k + 1) s = s.take n :: pieces n k (s.drop n) := by
  simp [pieces, List.range_succ_eq_map, Nat.mul_succ, Nat.add_comm]

/-- Strings of one length, joined and cut at that length, are the strings again (R153). -/
theorem pieces_flatMap {blocks : List Bits} {f : Bits → Bits} (h : ∀ b ∈ blocks, (f b).length = n) :
    pieces n blocks.length (blocks.flatMap f) = blocks.map f := by
  induction blocks with
  | nil => rfl
  | cons b blocks ih =>
    obtain ⟨hb, hblocks⟩ := List.forall_mem_cons.mp h
    rw [List.length_cons, pieces_succ_head, List.flatMap_cons, List.take_left' hb, List.drop_left' hb, ih hblocks,
      List.map_cons]

/-- If the command made of each block completes and the host then reads that block's result, from whatever state, the
host joins these results (R151 to R153). -/
theorem collect_map (read : PortOut → Bits) (word : Bits → Word) {result : Bits → Bits} {blocks : List Bits}
    (h : ∀ b ∈ blocks, ∀ s, ∃ t, exec (decode (word b)) s = .next t ∧ read t.outputs = result b) (s : State) :
    ∃ t, collect read (blocks.map word) s = .next (blocks.flatMap result, t) := by
  induction blocks generalizing s with
  | nil => exact ⟨s, rfl⟩
  | cons b blocks ih =>
    obtain ⟨hb, hblocks⟩ := List.forall_mem_cons.mp h
    obtain ⟨t, hexec, hread⟩ := hb s
    obtain ⟨u, hcollect⟩ := ih hblocks t
    exact ⟨u, by simp only [List.map_cons, collect, issue_eq_exec, hexec, hcollect, hread, List.flatMap_cons]⟩

end Pieces

/-! ### repetitionDecode -/

section Repetition

/-- A string cut between two triplets decodes part by part (R102, R151). -/
theorem decodeTriplets_take_append_drop (n : Nat) (s : Bits) :
    decodeTriplets (s.take (3 * n)) ++ decodeTriplets (s.drop (3 * n)) = decodeTriplets s := by
  induction n generalizing s with
  | zero => rfl
  | succ n ih =>
    rcases Nat.lt_or_ge s.length 3 with hshort | hlong
    · rw [List.take_of_length_le (by omega), List.drop_of_length_le (by omega)]
      exact List.append_nil _
    · match s, hlong with
      | a :: b :: c :: rest, _ => simp [Nat.mul_succ, decodeTriplets, ih]

/-- Chunks of 6 bits hold whole triplets, so decoding chunk by chunk decodes the string (R151). -/
theorem pieces_flatMap_decodeTriplets {k : Nat} {s : Bits} (h : s.length ≤ 6 * k) :
    (pieces 6 k s).flatMap decodeTriplets = decodeTriplets s := by
  induction k generalizing s with
  | zero =>
    obtain rfl : s = [] := List.length_eq_zero_iff.mp (by omega)
    rfl
  | succ k ih =>
    rw [pieces_succ_head, List.flatMap_cons, ih (by rw [List.length_drop]; omega)]
    exact decodeTriplets_take_append_drop 2 s

/-- After REPDEC of a string the host reads RLEN bits of RDATA: the string's majority bits (R101, R151). -/
theorem exec_repdec_read {b : Bits} (h : b.length ≤ 8) (s : State) : ∃ t,
    exec (decode (operandWord 0x1 b)) s = .next t ∧ unpack t.outputs.rdata t.outputs.rlen.toNat = decodeTriplets b := by
  have hlen : (decodeTriplets b).length ≤ 8 := by rw [decodeTriplets_length]; omega
  refine ⟨_, exec_repdec_operandWord h s, ?_⟩
  rw [← decodeTriplets_length b]
  simp only [State.outputs, writeResult_rdata, writeResult_rlen, operand_length_toNat hlen, unpack_pack hlen]

/-- repetitionDecode of any string is `decodeTriplets` of it (R151). -/
theorem repetitionDecode_eq (c : Bits) (s : State) : ∃ t, repetitionDecode c s = .next (decodeTriplets c, t) := by
  obtain ⟨t, ht⟩ := collect_map (fun o => unpack o.rdata o.rlen.toNat) (operandWord 0x1)
    (blocks := pieces 6 ((c.length + 5) / 6) c) (fun _ hb => exec_repdec_read ((pieces_length_le hb).trans (by decide))) s
  rw [pieces_flatMap_decodeTriplets (by omega)] at ht
  exact ⟨t, ht⟩

end Repetition

/-- Settles O16: the chunks' majority bits, joined, are those of the string, and those of an encoded string are the
string. -/
theorem repetitionDecodeOfWholeString : Obligations.RepetitionDecodeOfWholeString := by
  refine ⟨fun c s => ?_, fun b s => ?_⟩
  · obtain ⟨t, ht⟩ := repetitionDecode_eq c s
    refine ⟨_, t, ht, decodeTriplets_length c, ?_, fun k hk => ?_⟩
    · rintro rfl
      cases ht
      rfl
    · rw [← decodeTriplets_length] at hk
      rw [List.getD_eq_getElem _ _ hk, decodeTriplets_getElem]
  · obtain ⟨t, ht⟩ := repetitionDecode_eq (repetitionEncode b) s
    exact ⟨t, by rw [ht, decodeTriplets_repetitionEncode]⟩

/-! ### hammingEncode and hammingDecode -/

/-- The operands of hammingEncode: the message's blocks of 4 bits, the last one padded (R152). -/
def paddedBlocks (m : Bits) : List Bits := (pieces 4 ((m.length + 3) / 4) m).map padBlock

/-- The 7 bits the host reads after HAMENC of a block (R152). -/
def blockCodeword (block : Bits) : Bits := unpack (hamCodeword (pack block)) 7

section Blocks
variable {b : Bits} (m : Bits)

theorem padBlock_length (h : b.length ≤ 4) : (padBlock b).length = 4 := by
  rw [padBlock, List.length_append, List.length_replicate]
  omega

theorem length_of_mem_paddedBlocks (h : b ∈ paddedBlocks m) : b.length = 4 := by
  obtain ⟨block, hblock, rfl⟩ := List.mem_map.mp h
  exact padBlock_length (pieces_length_le hblock)

theorem paddedBlocks_length : (paddedBlocks m).length = (m.length + 3) / 4 := by simp [paddedBlocks, pieces]

/-- The padded blocks, joined, are the string filled up with zeros on its right (R152). -/
theorem pieces_flatMap_padBlock {k : Nat} {m : Bits} (h : m.length ≤ 4 * k) :
    (pieces 4 k m).flatMap padBlock = m ++ List.replicate (4 * k - m.length) false := by
  induction k generalizing m with
  | zero =>
    obtain rfl : m = [] := List.length_eq_zero_iff.mp (by omega)
    rfl
  | succ k ih =>
    rw [pieces_succ_head, List.flatMap_cons, ih (by rw [List.length_drop]; omega), List.length_drop, padBlock]
    rcases Nat.lt_or_ge m.length 4 with hshort | hfull
    · have hzeros : 4 - m.length + (4 * k - (m.length - 4)) = 4 * (k + 1) - m.length := by omega
      rw [List.take_of_length_le hshort.le, List.drop_of_length_le hshort.le, List.nil_append, List.append_assoc,
        List.replicate_append_replicate, hzeros]
    · have hnone : 4 - (m.take 4).length = 0 := by rw [List.length_take]; omega
      have hzeros : 4 * k - (m.length - 4) = 4 * (k + 1) - m.length := by omega
      rw [hnone, List.replicate_zero, List.append_nil, ← List.append_assoc, List.take_append_drop, hzeros]

theorem paddedBlocks_flatten :
    (paddedBlocks m).flatten = m ++ List.replicate (4 * ((m.length + 3) / 4) - m.length) false :=
  pieces_flatMap_padBlock (by omega)

/-- The host presents the codeword as HAMENC delivered it (R111, R153). -/
theorem pack_blockCodeword (b : Bits) : pack (blockCodeword b) = hamCodeword (pack b) :=
  congrArg pack (unpack_pack (s := hamEncode _ _ _ _) (by simp [hamEncode]))

/-- After HAMENC of a block the host reads its codeword (R111, R152). -/
theorem exec_hamenc_read (h : b.length = 4) (s : State) : ∃ t,
    exec (decode (operandWord 0x2 b)) s = .next t ∧ unpack t.outputs.rdata 7 = blockCodeword b := by
  rw [operandWord, decode_hamenc, h]
  exact ⟨_, exec_hamenc (pack b) rfl s, rfl⟩

/-- After HAMDEC of a block's codeword the host reads the block (R122, R153). -/
theorem exec_hamdec_read (h : b.length = 4) (s : State) : ∃ t,
    exec (decode (operandWord 0x3 (blockCodeword b))) s = .next t ∧ unpack t.outputs.rdata 4 = b := by
  obtain ⟨t, hexec, -, hdata⟩ := exec_hamdec_hamCodeword (pack b) s
  rw [operandWord, decode_hamdec, pack_blockCodeword]
  refine ⟨t, hexec, ?_⟩
  have hlow : ∀ j < 4, (0x0F : Byte).getLsbD j = true := by decide
  calc unpack t.regs.rdata 4
    _ = unpack (pack b) 4 := unpack_congr fun j hj => by rw [hdata, BitVec.getLsbD_and, hlow j hj, Bool.and_true]
    _ = b := h ▸ unpack_pack (h.le.trans (by decide))

end Blocks

section Messages
variable {blocks : List Bits} (m : Bits) (s : State)

@[simp] theorem codewords_length (blocks : List Bits) : (blocks.flatMap blockCodeword).length = 7 * blocks.length := by
  simp [List.length_flatMap, blockCodeword, Nat.mul_comm]

/-- hammingEncode answers the codewords of the padded blocks (R152). -/
theorem hammingEncode_eq : ∃ t, hammingEncode m s = .next ((paddedBlocks m).flatMap blockCodeword, t) := by
  obtain ⟨t, ht⟩ := collect_map (fun o => unpack o.rdata 7) (operandWord 0x2)
    (fun _ hb => exec_hamenc_read (length_of_mem_paddedBlocks m hb)) s
  refine ⟨t, ?_⟩
  rw [← ht, paddedBlocks, List.map_map]
  rfl

/-- hammingDecode of the codewords of some blocks answers the blocks (R153). -/
theorem hammingDecode_codewords (h : ∀ b ∈ blocks, b.length = 4) :
    ∃ t, hammingDecode (blocks.flatMap blockCodeword) s = .next (some blocks.flatten, t) := by
  obtain ⟨t, ht⟩ := collect_map (fun o => unpack o.rdata 4) (operandWord 0x3 ∘ blockCodeword) (result := id)
    (fun b hb => exec_hamdec_read (h b hb)) s
  have hpieces : pieces 7 blocks.length (blocks.flatMap blockCodeword) = blocks.map blockCodeword :=
    pieces_flatMap fun b _ => unpack_length _ 7
  rw [List.flatMap_id] at ht
  refine ⟨t, ?_⟩
  rw [hammingDecode, codewords_length, if_pos (Nat.mul_mod_right 7 _), Nat.mul_div_cancel_left _ (by decide), hpieces,
    List.map_map, ht]

end Messages

/-- Settles O22: decoding the codewords of the padded blocks gives these blocks back, and they are the message and its
padding. -/
theorem hammingMessageRoundTrip : Obligations.HammingMessageRoundTrip := by
  refine ⟨fun m s => ?_, fun c s hlen => if_neg hlen⟩
  obtain ⟨t, hencode⟩ := hammingEncode_eq m s
  obtain ⟨u, hdecode⟩ := hammingDecode_codewords t fun _ => length_of_mem_paddedBlocks m
  rw [paddedBlocks_flatten] at hdecode
  exact ⟨_, t, u, hencode, by rw [codewords_length, paddedBlocks_length], hdecode⟩

end Sys2Proof.Machine

/-! PROOFS. The two kinds of command that take no operand and compute nothing: NOP, which is an idle step, and the
undefined opcodes, which reject (R170 to R172). -/

namespace Sys2Proof.Machine

theorem decode_nop (len : Nibble) (data : Byte) : decode (commandWord 0x0 len data) = .nop len data :=
  decode_encode (i := .nop len data) rfl

/-- NOP answers the state it is given (R170). -/
@[simp] theorem exec_nop (len : Nibble) (data : Byte) (s : State) : exec (.nop len data) s = .next s :=
  Executes.nop.exec_eq

/-- A presented command is executed on the state as it was before the sample was listed (R21). -/
theorem step_present_command (w : Word) (s : State) : step (s.present (.command w)) = exec (decode w) s :=
  step_of_command rfl rfl

/-- A presented idle sample is taken and nothing else happens (R21). -/
theorem step_present_idle (s : State) : step (s.present .idle) = .next s :=
  step_of_idle rfl rfl

/-- Settles O10: the step that presents NOP and the idle step both answer the state before the sample was listed. -/
theorem nopWritesNothing : Obligations.NopWritesNothing := by
  intro len data s
  refine ⟨decode_nop len data, exec_nop len data s, ?_⟩
  rw [step_present_command, decode_nop, exec_nop, step_present_idle]

theorem decode_undefined {op : Nibble} (hop : 8 ≤ op.toNat) (len : Nibble) (data : Byte) :
    decode (commandWord op len data) = .undefined op len data :=
  decode_encode (i := .undefined op len data) (decide_eq_true hop)

/-- Settles O11: the opcode alone makes the command undefined, and a rejected command does `reject` and nothing else. -/
theorem undefinedOpcodesAreRejected : Obligations.UndefinedOpcodesAreRejected := by
  intro op len data s hop
  exact ⟨decode_undefined hop len data, _, exec_of_rejected rfl s, reject_rejects .opcode s⟩

end Sys2Proof.Machine


/-! PROOFS. The reset step: it is chosen by `rst` alone, and it writes every register (R190). -/

namespace Sys2Proof.Machine

/-- A presented reset sample resets the registers as they were before it was listed, whatever `cmd_valid` and `cmd`
hold; no command is executed (R190). -/
theorem step_present_of_rst {p : PortIn} (hr : p.rst = true) (s : State) :
    step (s.present p) = .next s.resetRegs := by
  rw [step_of_rst (by rwa [present_sample]), present_afterSample]

/-- Settles O38: the step answers `resetRegs` of the state before the sample was listed, which writes the record of
reset values and leaves the later samples. -/
theorem resetStepSetsEveryRegister : Obligations.ResetStepSetsEveryRegister :=
  ⟨fun s _ _ => ⟨s.resetRegs, step_present_of_rst rfl s, resetRegs_regs s, resetRegs_inputs s⟩, rfl⟩

end Sys2Proof.Machine


/-! PROOFS. The step for which the host has listed no sample: the model's choice of log entry 2, of which the spec says
nothing. -/

namespace Sys2Proof.Machine

/-- There is no sample to take from an empty list. -/
theorem afterSample_of_nil {s : State} (h : s.inputs = []) : s.afterSample = s := by
  rw [State.afterSample, h, List.tail_nil, ← h]

/-- Settles O40: the sample read in place of a listed one is the idle sample, so the step is an idle step and the list
stays empty. -/
theorem unlistedStepIsIdle : Obligations.UnlistedStepIsIdle := by
  intro s h
  have hidle : s.sample = .idle := sample_of_nil h
  calc step s
    _ = .next s.afterSample := step_of_idle (by rw [hidle]; rfl) (by rw [hidle]; rfl)
    _ = .next s := by rw [afterSample_of_nil h]

end Sys2Proof.Machine
